-- ==== Sys2Proof/Word.lean ====
section
/-! DEFINITION. The two plainest types of CORE: a bit (00_scope R10) and a 2-bit port word (30_encoding R81, R84). -/

namespace Sys2Proof

/-- A bit, 0 or 1: the spec calls bits "boolean values (0/1)" (00_scope R10). `NOT b` is `!b`. -/
abbrev Bit := Bool

/-- A token word as it stands on a port: bit 1 is `last`, bit 0 is `data` (30_encoding R81, R84). -/
abbrev Word := BitVec 2

/-- The number 0 or 1 that a bit stands for (00_scope R10). -/
abbrev Bit.num (b : Bit) : Nat := b.toNat

end Sys2Proof
end

