-- ==== Sys2Proof/Syntax.lean ====
section
/-! DEFINITION. Names of the units, ports and tokens, and the six operations of CORE (30_encoding R80), one constructor per row of spec/opcode_table.json. -/

namespace Sys2Proof

/-- The two units of CORE (00_scope R2). -/
inductive UnitId
  | enc
  | dec
deriving DecidableEq, Repr, Inhabited

/-- Where an operation is presented: a unit's reset input (Format S) or its token port (Format T); the port decides the
unit, the word does not (30_encoding R81, R82). -/
inductive Port
  | encRst
  | decRst
  | encIn
  | decIn
deriving DecidableEq, Repr

/-- A token of an input channel: `BIT(b)`, or `END`, which carries no data (20_memory R51). -/
inductive Token
  | bit (b : Bit)
  | last
deriving DecidableEq, Repr

/-- A token of an output channel: `BIT(b)`, or `CLOSE`, which carries no data (20_memory R51). -/
inductive OutToken
  | bit (b : Bit)
  | close
deriving DecidableEq, Repr

/-- The six operations of CORE (30_encoding R80). -/
inductive Instr
  /-- `ENC.RESET` (42_control R170). -/
  | encReset
  /-- `ENC.BIT d` (40_encoder R110). -/
  | encBit (d : Bit)
  /-- `ENC.END` (40_encoder R115). -/
  | encEnd
  /-- `DEC.RESET` (42_control R171). -/
  | decReset
  /-- `DEC.FBIT d` (41_decoder R140). -/
  | decFbit (d : Bit)
  /-- `DEC.END` (41_decoder R143). -/
  | decEnd
deriving DecidableEq, Repr

/-- The unit an operation belongs to (30_encoding R80). -/
def Instr.unit : Instr → UnitId
  | .encReset => .enc
  | .encBit _ => .enc
  | .encEnd => .enc
  | .decReset => .dec
  | .decFbit _ => .dec
  | .decEnd => .dec

end Sys2Proof
end

