-- ==== Sys2Proof/Config.lean ====
section
/-! DEFINITION. What an implementation fixes: the field width `W` and the starting polarity `P0` (00_scope R6, R7), and the one free value of the model, the order of the two units. -/

namespace Sys2Proof

/-- The configuration inputs of one unit (00_scope R6, R7; 10_state R31).
`W = 0` is refused by the spec ("no machine exists for it"), so no configuration with `W = 0` can be built. -/
structure Config where
  /-- The field width. -/
  W : Nat
  /-- The starting polarity. -/
  P0 : Bit
  /-- `W >= 1` (00_scope R6). -/
  W_pos : 1 ≤ W
deriving DecidableEq, Repr

/-- The saturation value `MAX = 2^W - 1` (00_scope R8). -/
def Config.max (c : Config) : Nat := 2 ^ c.W - 1

/-- The configuration at `State.reset`: the reference width 8 and the reference polarity 0 (00_scope R6, R7).
DESIGN CHOICE, log entry 2: the spec leaves both open and names 8 and 16 as reference widths; no statement rests on 8. -/
def Config.reference : Config where
  W := 8
  P0 := false
  W_pos := by decide

/-- Free value, log entry 6: which unit moves at the `n`-th open choice between the units.
The spec leaves the order open (20_memory R68), so this has no body. -/
opaque Config.freeTurn : Nat → UnitId

end Sys2Proof
end

