-- ==== Sys2Proof/WellFormed.lean ====
section
/-! DEFINITION. Well-formedness of what is presented to CORE: operations, field values and field streams (20_memory R55), and the token stream of one run (20_memory R51). -/

namespace Sys2Proof

/-- Every operation with any operand is well formed: no token word is illegal (30_encoding R88), and a bit has no third
value, so the types leave nothing to check. Spelled out per constructor so that a new one must be looked at. -/
def Instr.wf : Instr → Bool
  | .encReset => true
  | .encBit _ => true
  | .encEnd => true
  | .decReset => true
  | .decFbit _ => true
  | .decEnd => true

/-- A field value is in `0 .. MAX` (20_memory R55). -/
def fieldWf (c : Config) (v : Nat) : Bool := decide (v ≤ c.max)

/-- Every field of a field stream is in `0 .. MAX` (20_memory R55). -/
def fieldsWf (c : Config) (f : List Nat) : Bool := f.all (fieldWf c)

/-- The tokens of one run: `BIT` tokens followed by exactly one `END` (20_memory R51). -/
def runTokensWf : List Token → Bool
  | [] => false
  | [.last] => true
  | .last :: _ => false
  | .bit _ :: ts => runTokensWf ts

end Sys2Proof
end

