-- ==== Sys2Proof/Decode.lean ====
section
/-! DEFINITION. The binary coding of tokens and operations: Format T, Format S and Format O (30_encoding R81, R82, R84), the decoder of R86 and an encoder. -/

namespace Sys2Proof

/-- The token a Format T word stands for, by the mask and match of 30_encoding R86: mask `10`; match `00` is `BIT(data)`,
match `10` is `END` with its data bit ignored (R88). -/
def tokenOf (w : Word) : Token :=
  if w &&& 0b10#2 = 0b00#2 then .bit (w.getLsbD 0) else .last

/-- The Format T word of a token; `END` is written `10` (30_encoding R81; 95_test_vectors section 3). -/
def wordOf : Token → Word
  | .bit false => 0b00#2
  | .bit true => 0b01#2
  | .last => 0b10#2

/-- The Format O word of an output token (30_encoding R84). -/
def wordOfOut : OutToken → Word
  | .bit false => 0b00#2
  | .bit true => 0b01#2
  | .close => 0b10#2

/-- Why a word presented on a port selects no operation. -/
inductive DecodeError
  /-- A reset input that is 0 causes nothing (30_encoding R82). -/
  | noOperation
  /-- The number does not fit the port: 1 bit for a reset input, 2 bits for a token port (30_encoding R81, R82). -/
  | wordTooWide
deriving DecidableEq, Repr

/-- The operation a token selects on a unit's token port (30_encoding R86). -/
def tokenInstr (u : UnitId) (t : Token) : Instr :=
  match u, t with
  | .enc, .bit d => .encBit d
  | .enc, .last => .encEnd
  | .dec, .bit d => .decFbit d
  | .dec, .last => .decEnd

/-- A reset input's value as an operation (30_encoding R82). -/
def decodeReset (i : Instr) (w : Nat) : Except DecodeError Instr :=
  if w = 0 then .error .noOperation
  else if w = 1 then .ok i
  else .error .wordTooWide

/-- A token port's word as an operation (30_encoding R81, R86). -/
def decodeToken (u : UnitId) (w : Nat) : Except DecodeError Instr :=
  if w < 4 then .ok (tokenInstr u (tokenOf (BitVec.ofNat 2 w))) else .error .wordTooWide

/-- The decoder of 30_encoding R86: total on every port and number, rejecting by name. -/
def decode (p : Port) (w : Nat) : Except DecodeError Instr :=
  match p with
  | .encRst => decodeReset .encReset w
  | .decRst => decodeReset .decReset w
  | .encIn => decodeToken .enc w
  | .decIn => decodeToken .dec w

/-- The port and the word that present an operation (30_encoding R81, R82). -/
def encode : Instr → Port × Nat
  | .encReset => (.encRst, 1)
  | .encBit d => (.encIn, (wordOf (.bit d)).toNat)
  | .encEnd => (.encIn, (wordOf .last).toNat)
  | .decReset => (.decRst, 1)
  | .decFbit d => (.decIn, (wordOf (.bit d)).toNat)
  | .decEnd => (.decIn, (wordOf .last).toNat)

/-- The operation read from a table word `w` of `nbits` bits, in the order of 30_encoding R86: the reset input first, then
the token port. A table word names no port and the rows of the two units have the same bits, so the encoder's ports are
taken (DESIGN CHOICE, log entry 12). A word of exactly 2 bits is Format T and of exactly 1 bit Format S. -/
def decodeTableWord (nbits w : Nat) : Option Instr :=
  if 2 ^ nbits ≤ w then none
  else if nbits = 2 then (decode .encIn w).toOption
  else if nbits = 1 then (decode .encRst w).toOption
  else match decode .encRst w with
    | .ok i => some i
    | .error _ => (decode .encIn w).toOption

end Sys2Proof
end

