-- ==== Sys2Proof/Machine/State.lean ====
section
/-! DEFINITION. State as plain data: the registers of the two units (10_state R20), the four channels (20_memory R50), the reset inputs (30_encoding R82), the configuration inputs (10_state R31), the host's wiring (20_memory R68), and the model's own scheduling fields. -/

namespace Sys2Proof.Machine

/-- The phase register of a unit (10_state R28). The reserved code `11` has no value here (93 V2). -/
inductive Phase
  | run
  | done
  | fault
deriving DecidableEq, Repr

/-- The error register of a unit (10_state R29, 60_exceptions R190). The reserved code `11` has no value here (93 V2). -/
inductive Err
  | noError
  | formatError
  | fieldOverflow
deriving DecidableEq, Repr

/-- The encoder's registers (10_state R20). -/
structure Enc where
  /-- The unit has been reset since power-on (70_reset R220; DEDUCED, log entry 3). -/
  live : Bool
  /-- The run counter (10_state R21). -/
  cnt : Nat
  /-- The polarity of the run being counted (10_state R22). -/
  pol : Bit
  /-- The lifecycle of the unit (10_state R28). -/
  phase : Phase
  /-- The error code of the unit (10_state R29). -/
  err : Err
  /-- Ghost: the field values emitted since the last reset, in order (10_state R33). -/
  fields : List Nat
  /-- Ghost, the model's own: the words this unit has appended to its output channel since its last reset, that is the
  output of its current run (20_memory R69; DESIGN CHOICE, log entry 21). No operation reads it but to append to it. -/
  out : List Word
deriving DecidableEq, Repr

/-- The decoder's registers (10_state R20). -/
structure Dec where
  /-- The unit has been reset since power-on (70_reset R220; DEDUCED, log entry 3). -/
  live : Bool
  /-- The polarity of the next field to be decoded (10_state R23). -/
  pol : Bit
  /-- The field bits received so far, as a number (10_state R24). -/
  sh : Nat
  /-- How many bits of the current field have been received (10_state R25). -/
  nb : Nat
  /-- The lifecycle of the unit (10_state R28). -/
  phase : Phase
  /-- The error code of the unit (10_state R29). -/
  err : Err
  /-- Ghost, the model's own: the words this unit has appended to its output channel since its last reset, that is the
  output of its current run (20_memory R69; DESIGN CHOICE, log entry 21). No operation reads it but to append to it. -/
  out : List Word
deriving DecidableEq, Repr

/-- The whole state of CORE and of what stands at its ports. -/
structure State where
  /-- The encoder's registers. -/
  enc : Enc
  /-- The decoder's registers. -/
  dec : Dec
  /-- `ENC_IN`: Format T words, head first (20_memory R50, R52). -/
  encIn : List Word
  /-- `ENC_OUT`: Format O words, first appended first (20_memory R50, R52). -/
  encOut : List Word
  /-- `DEC_IN`: Format T words, head first; in loopback also the channel `ENC_OUT` (20_memory R50, R68). -/
  decIn : List Word
  /-- `DEC_OUT`: Format O words, first appended first (20_memory R50, R52). -/
  decOut : List Word
  /-- The encoder's reset input: a pulse that waits to be taken (30_encoding R82; DESIGN CHOICE, log entry 5). -/
  encRst : Bit
  /-- The decoder's reset input: a pulse that waits to be taken (30_encoding R82; DESIGN CHOICE, log entry 5). -/
  decRst : Bit
  /-- The encoder's configuration inputs; no step writes them (10_state R31; DESIGN CHOICE, log entry 1). -/
  encCfg : Config
  /-- The decoder's configuration inputs; no step writes them (10_state R31; DESIGN CHOICE, log entry 1). -/
  decCfg : Config
  /-- The host has wired `ENC_OUT` to `DEC_IN` (20_memory R68; log entry 8). -/
  loopback : Bool
  /-- The model's own: the unit that moves when both can (20_memory R68; log entry 6). -/
  turn : UnitId
  /-- The model's own: how many open choices between the units have been made (log entry 6). -/
  tick : Nat
deriving DecidableEq, Repr

/-- The reasons the whole machine would stop with a fault. There is none, and no one raises one: FormatError and
FieldOverflow are states of a unit, `err` and `phase` (60_exceptions R198), and the other unit goes on. Safe: nothing is
stopped that the spec lets go on (DEDUCED, log entry 10). -/
inductive Fault
deriving DecidableEq, Repr

/-- The reasons there is no step. -/
inductive Refusal
  /-- Raised by `exec`'s arm of an operation without a meaning. Safe: no next state is claimed. No arm uses it now. -/
  | notModelled (mnemonic : String)
  /-- Raised by the meaning of a token operation of unit `u` that is not enabled: the unit is not in RUN since a reset,
  or the operation's token is not at the head of its input channel (42_control R173, 30_encoding R80).
  Safe: the spec says "no step", and no next state is claimed. -/
  | notEnabled (u : UnitId)
  /-- Raised by `step` when no unit has an enabled operation: each waits for a token or for its reset
  (20_memory R72, 42_control R173). Safe: the spec says "no step", and no next state is claimed. -/
  | idle
deriving DecidableEq, Repr

/-- The encoder's registers right after `ENC.RESET` under configuration `c` (10_state R35). -/
def Enc.init (c : Config) : Enc where
  live := true
  cnt := 0
  pol := c.P0
  phase := .run
  err := .noError
  fields := []
  out := []

/-- The decoder's registers right after `DEC.RESET` under configuration `c` (10_state R35). -/
def Dec.init (c : Config) : Dec where
  live := true
  pol := c.P0
  sh := 0
  nb := 0
  phase := .run
  err := .noError
  out := []

/-- CORE right after the reset of both units (10_state R35), with empty channels, at the reference configuration
(log entries 2, 7, 20). DESIGN CHOICE, log entries 5, 6 and 8: no reset input is raised, `turn = enc`, `tick = 0`, and the
units are not wired; the spec gives none of these. -/
def State.reset : State where
  enc := Enc.init Config.reference
  dec := Dec.init Config.reference
  encIn := []
  encOut := []
  decIn := []
  decOut := []
  encRst := false
  decRst := false
  encCfg := Config.reference
  decCfg := Config.reference
  loopback := false
  turn := .enc
  tick := 0

/-- CORE at power-on, before any reset: every register holds whatever `e` and `d` say, since the spec leaves each of them
unspecified, and no unit has been reset (70_reset R220). What else the spec leaves open there is an argument too, and no
value of it is chosen: the reset inputs, the configuration, the wiring, and which unit moves first (20_memory R68; log
entries 3, 5 and 6). The channels are empty (95_test_vectors section 3; DESIGN CHOICE, log entry 7). -/
def State.powerOn (e : Enc) (d : Dec) (ce cd : Config) (encRst decRst : Bit) (wired : Bool) (turn : UnitId)
    (tick : Nat) : State where
  enc := { e with live := false }
  dec := { d with live := false }
  encIn := []
  encOut := []
  decIn := []
  decOut := []
  encRst := encRst
  decRst := decRst
  encCfg := ce
  decCfg := cd
  loopback := wired
  turn := turn
  tick := tick

end Sys2Proof.Machine
end

