-- ==== Sys2Proof/Machine/Flags.lean ====
section
/-! DEFINITION. The flags and status of CORE: the polarity flags (10_state R22, R23), the choice of an operation's arm (40_encoder R111, 41_decoder R140), the codes of phase and err (10_state R28, R29), and what the host observes (42_control R180). -/

namespace Sys2Proof.Machine

/-- A polarity flag toggled (10_state R22, R23). -/
def togglePol (p : Bit) : Bit := !p

/-- The three arms of `ENC.BIT` (40_encoder R111). -/
inductive EncArm
  | count
  | escape
  | flip
deriving DecidableEq, Repr

/-- The arm `ENC.BIT d` runs (40_encoder R111); the saturation test comes before the increment (90_conflicts C9). -/
def encArm (c : Config) (e : Enc) (d : Bit) : EncArm :=
  if d = e.pol then
    if e.cnt = c.max then .escape else .count
  else .flip

/-- The two arms of `DEC.FBIT` (41_decoder R140). -/
inductive DecArm
  | shift
  | complete
deriving DecidableEq, Repr

/-- The arm `DEC.FBIT` runs (41_decoder R141, R142). -/
def decArm (c : Config) (r : Dec) : DecArm :=
  if r.nb = c.W - 1 then .complete else .shift

/-- The 2-bit code of a phase (10_state R28). -/
def Phase.code : Phase → BitVec 2
  | .run => 0b00#2
  | .done => 0b01#2
  | .fault => 0b10#2

/-- The 2-bit code of an error (10_state R29, 60_exceptions R190). -/
def Err.code : Err → BitVec 2
  | .noError => 0b00#2
  | .formatError => 0b01#2
  | .fieldOverflow => 0b10#2

/-- Everything the host can observe of CORE (10_state R27, 42_control R180). -/
structure Observation where
  encOut : List Word
  decOut : List Word
  encPhase : BitVec 2
  encErr : BitVec 2
  decPhase : BitVec 2
  decErr : BitVec 2
deriving DecidableEq, Repr

/-- The contents of the channel `ENC_OUT`: under the host's loopback it is one channel with `DEC_IN`
(20_memory R68; 95_test_vectors P3; DEDUCED, log entry 8). -/
def State.encOutChannel (s : State) : List Word :=
  if s.loopback then s.decIn else s.encOut

/-- The two output channels and the four status outputs (10_state R27, 42_control R180). -/
def State.observe (s : State) : Observation where
  encOut := s.encOutChannel
  decOut := s.decOut
  encPhase := s.enc.phase.code
  encErr := s.enc.err.code
  decPhase := s.dec.phase.code
  decErr := s.dec.err.code

end Sys2Proof.Machine
end

