-- ==== Sys2Proof/Machine/Operands.lean ====
section
/-! DEFINITION. The operand forms of CORE: a field as its W bits, most significant first, and the number W bits make (00_scope R13; 30_encoding R83, R85; 20_memory R56). -/

namespace Sys2Proof.Machine

/-- `ser_W(v)`: the bits `v[W-1], ..., v[0]` (00_scope R13). Of a number too wide for a field it gives the low W bits
(DESIGN CHOICE, log entry 24). -/
def ser : Nat → Nat → List Bit
  | 0, _ => []
  | n + 1, v => v.testBit n :: ser n v

/-- One bit shifted in at bit 0: `sh' = 2 * sh + d` (30_encoding R85, 41_decoder R140). -/
def shiftIn (sh : Nat) (d : Bit) : Nat := 2 * sh + d.num

/-- `deser_W(s)`: the number whose bits, most significant first, are `s` (00_scope R13). -/
def deser (s : List Bit) : Nat := s.foldl shiftIn 0

end Sys2Proof.Machine
end

