-- ==== Sys2Proof/Machine/Ops.lean ====
section
/-! DEFINITION. The named operations over registers and channels: the primitives Take, OutBit, EmitField, OutClose and raise (00_scope R12, 42_control R175), and the reset of a unit. -/

namespace Sys2Proof.Machine

/-- The outcome of an operation or a step. -/
abbrev Result := Host.Outcome State Fault Refusal

/-- The encoder takes tokens: it is in RUN, and it has been reset since power-on (42_control R173, 70_reset R220). -/
def Enc.running (e : Enc) : Bool := e.live && e.phase == .run

/-- The decoder takes tokens: it is in RUN, and it has been reset since power-on (42_control R173, 70_reset R220). -/
def Dec.running (r : Dec) : Bool := r.live && r.phase == .run

/-- `Take(ENC_IN)` for an operation that is enabled by the token `tok` at the head (00_scope R12, 30_encoding R80);
none when the operation is not enabled. -/
def takeEnc (tok : Token) (s : State) : Option State :=
  match s.encIn with
  | w :: rest => if s.enc.running ∧ tokenOf w = tok then some { s with encIn := rest } else none
  | [] => none

/-- `Take(DEC_IN)` for an operation that is enabled by the token `tok` at the head (00_scope R12, 30_encoding R80);
none when the operation is not enabled. -/
def takeDec (tok : Token) (s : State) : Option State :=
  match s.decIn with
  | w :: rest => if s.dec.running ∧ tokenOf w = tok then some { s with decIn := rest } else none
  | [] => none

/-- A token operation of unit `u`: its body `k` runs after its token was taken; not enabled, it is no step
(42_control R173). -/
def onToken (u : UnitId) (taken : Option State) (k : State → State) : Result :=
  match taken with
  | some s => .next (k s)
  | none => .refused (.notEnabled u)

/-- Tokens appended to `ENC_OUT`, in order (00_scope R12, 20_memory R52); in loopback that channel is `DEC_IN`. They belong
to the output of the encoder's current run (20_memory R69; log entry 21). -/
def appendEncOut (ts : List OutToken) (s : State) : State :=
  { s with
    enc := { s.enc with out := s.enc.out ++ ts.map wordOfOut }
    encOut := if s.loopback then s.encOut else s.encOut ++ ts.map wordOfOut
    decIn := if s.loopback then s.decIn ++ ts.map wordOfOut else s.decIn }

/-- Tokens appended to `DEC_OUT`, in order (00_scope R12, 20_memory R52). They belong to the output of the decoder's current
run (20_memory R69; log entry 21). -/
def appendDecOut (ts : List OutToken) (s : State) : State :=
  { s with
    dec := { s.dec with out := s.dec.out ++ ts.map wordOfOut }
    decOut := s.decOut ++ ts.map wordOfOut }

/-- `raise E` in unit `u` (00_scope R12, 60_exceptions R198): the error code is recorded, the phase becomes FAULT, every
other register and every channel keeps its value. This is the whole of taking an exception: no vector, no saved context. -/
def raise (u : UnitId) (e : Err) (s : State) : State :=
  match u with
  | .enc => { s with enc := { s.enc with err := e, phase := .fault } }
  | .dec => { s with dec := { s.dec with err := e, phase := .fault } }

/-- A field put on `ENC_OUT` and on the ghost list (00_scope R12, 10_state R33). -/
def pushField (v : Nat) (s : State) : State :=
  let t := appendEncOut ((ser s.encCfg.W v).map .bit) s
  { t with enc := { t.enc with fields := t.enc.fields ++ [v] } }

/-- `EmitField(ENC_OUT, v)` with `k` the rest of the operation: a value above `MAX` raises FieldOverflow and nothing after
the raise is performed (00_scope R12, 60_exceptions R192, R198). -/
def emitField (v : Nat) (k : State → State) (s : State) : State :=
  if v ≤ s.encCfg.max then k (pushField v s) else raise .enc .fieldOverflow s

/-- `OutClose(ENC_OUT)` (00_scope R12). -/
def outCloseEnc (s : State) : State := appendEncOut [.close] s

/-- `OutClose(DEC_OUT)` (00_scope R12). -/
def outCloseDec (s : State) : State := appendDecOut [.close] s

/-- `n` times `OutBit(DEC_OUT, b)` (00_scope R12, 41_decoder R140). -/
def outBitsDec (n : Nat) (b : Bit) (s : State) : State := appendDecOut (List.replicate n (.bit b)) s

/-- Every encoder register at its reset value (42_control R170); a new run has no output yet (log entry 21). -/
def resetEnc (s : State) : State :=
  { s with
    enc := { live := true, cnt := 0, pol := s.encCfg.P0, phase := .run, err := .noError, fields := [], out := [] } }

/-- Every decoder register at its reset value (42_control R171); a new run has no output yet (log entry 21). -/
def resetDec (s : State) : State :=
  { s with
    dec := { live := true, pol := s.decCfg.P0, sh := 0, nb := 0, phase := .run, err := .noError, out := [] } }

end Sys2Proof.Machine
end

