-- ==== Sys2Proof/Machine/Control.lean ====
section
/-! DEFINITION. The reset operations `ENC.RESET` and `DEC.RESET` (42_control R170, R171): always enabled, and the only way out of DONE and FAULT (42_control R172, 60_exceptions R201). -/

namespace Sys2Proof.Machine

/-- `ENC.RESET` (42_control R170). -/
def execEncReset (s : State) : Result := .next (resetEnc s)

/-- `DEC.RESET` (42_control R171). -/
def execDecReset (s : State) : Result := .next (resetDec s)

end Sys2Proof.Machine
end

