-- ==== Sys2Proof/Machine/Decoder.lean ====
section
/-! DEFINITION. The decoder's token operations `DEC.FBIT` and `DEC.END` (41_decoder R140 to R143). -/

namespace Sys2Proof.Machine

/-- Shift arm: the bit enters the shift register (41_decoder R141). -/
def decShift (d : Bit) (s : State) : State :=
  { s with dec := { s.dec with sh := shiftIn s.dec.sh d, nb := s.dec.nb + 1 } }

/-- Complete arm: `n` bits of the polarity before the operation, then the polarity toggles and the shift register and the
bit index clear (41_decoder R142). -/
def decComplete (d : Bit) (s : State) : State :=
  let t := outBitsDec (shiftIn s.dec.sh d) s.dec.pol s
  { t with dec := { t.dec with pol := togglePol t.dec.pol, sh := 0, nb := 0 } }

/-- `DEC.FBIT d` after its token was taken (41_decoder R140). -/
def decFbitBody (d : Bit) (s : State) : State :=
  match decArm s.decCfg s.dec with
  | .shift => decShift d s
  | .complete => decComplete d s

/-- `DEC.END` after its token was taken: on a field boundary it closes, inside a field it raises FormatError
(41_decoder R143; 90_conflicts C3). -/
def decEndBody (s : State) : State :=
  if s.dec.nb = 0 then
    let t := outCloseDec s
    { t with dec := { t.dec with phase := .done } }
  else raise .dec .formatError s

/-- `DEC.FBIT d` (41_decoder R140). -/
def execDecFbit (d : Bit) (s : State) : Result := onToken .dec (takeDec (.bit d) s) (decFbitBody d)

/-- `DEC.END` (41_decoder R143). -/
def execDecEnd (s : State) : Result := onToken .dec (takeDec .last s) decEndBody

end Sys2Proof.Machine
end

