-- ==== Sys2Proof/Machine/Encoder.lean ====
section
/-! DEFINITION. The encoder's token operations `ENC.BIT` and `ENC.END` (40_encoder R110 to R115). -/

namespace Sys2Proof.Machine

/-- Count arm: nothing is emitted (40_encoder R112). -/
def encCount (s : State) : State :=
  { s with enc := { s.enc with cnt := s.enc.cnt + 1 } }

/-- Escape arm: the fields `MAX` and 0, the counter at 1, the polarity kept (40_encoder R113). -/
def encEscape (s : State) : State :=
  emitField s.encCfg.max
    (emitField 0 fun t => { t with enc := { t.enc with cnt := 1 } }) s

/-- Flip arm: the counter as a field, the counter at 1, the polarity toggled (40_encoder R114). -/
def encFlip (s : State) : State :=
  emitField s.enc.cnt
    (fun t => { t with enc := { t.enc with cnt := 1, pol := togglePol t.enc.pol } }) s

/-- `ENC.BIT d` after its token was taken (40_encoder R110, R111). -/
def encBitBody (d : Bit) (s : State) : State :=
  match encArm s.encCfg s.enc d with
  | .count => encCount s
  | .escape => encEscape s
  | .flip => encFlip s

/-- `ENC.END` after its token was taken (40_encoder R115). -/
def encEndBody (s : State) : State :=
  emitField s.enc.cnt
    (fun t => let u := outCloseEnc t; { u with enc := { u.enc with phase := .done } }) s

/-- `ENC.BIT d` (40_encoder R110). -/
def execEncBit (d : Bit) (s : State) : Result := onToken .enc (takeEnc (.bit d) s) (encBitBody d)

/-- `ENC.END` (40_encoder R115). -/
def execEncEnd (s : State) : Result := onToken .enc (takeEnc .last s) encEndBody

end Sys2Proof.Machine
end

