-- ==== Sys2Proof/Machine/Dispatch.lean ====
section
/-! DEFINITION. The dispatch of the six operations to their meanings (30_encoding R80). -/

namespace Sys2Proof.Machine

/-- The meaning of an operation (30_encoding R80): one arm per row of spec/opcode_table.json. -/
def exec (i : Instr) (s : State) : Host.Outcome State Fault Refusal :=
  match i with
  | .encReset => Sys2Proof.Machine.execEncReset s
  | .encBit d => Sys2Proof.Machine.execEncBit d s
  | .encEnd => Sys2Proof.Machine.execEncEnd s
  | .decReset => Sys2Proof.Machine.execDecReset s
  | .decFbit d => Sys2Proof.Machine.execDecFbit d s
  | .decEnd => Sys2Proof.Machine.execDecEnd s

end Sys2Proof.Machine
end

