-- ==== Sys2Proof/Machine/Fetch.lean ====
section
/-! DEFINITION. Which operation is next: the selection of a unit's operation from its ports (30_encoding R86), the choice between the units (20_memory R68), and the host's side of the input ports. -/

namespace Sys2Proof.Machine

/-- A unit's next operation (30_encoding R86): (1) its reset input; (2) nothing outside RUN; (3) the word at the head of
its token port. -/
def selectUnit (rstPort tokPort : Port) (rst : Bit) (running : Bool) (ch : List Word) : Option Instr :=
  match decode rstPort rst.num with
  | .ok i => some i
  | .error _ =>
    match running, ch with
    | true, w :: _ => (decode tokPort w.toNat).toOption
    | _, _ => none

/-- The encoder's next operation (30_encoding R86). -/
def selectEnc (s : State) : Option Instr := selectUnit .encRst .encIn s.encRst s.enc.running s.encIn

/-- The decoder's next operation (30_encoding R86). -/
def selectDec (s : State) : Option Instr := selectUnit .decRst .decIn s.decRst s.dec.running s.decIn

/-- A reset pulse is taken by the reset it causes (30_encoding R82; DESIGN CHOICE, log entry 5). -/
def consumePulse (i : Instr) (s : State) : State :=
  match i with
  | .encReset => { s with encRst := false }
  | .decReset => { s with decRst := false }
  | _ => s

/-- An open choice between the units was made: the next one is a new free value (20_memory R68; log entry 6). -/
def drawTurn (s : State) : State :=
  { s with turn := Config.freeTurn s.tick, tick := s.tick + 1 }

/-- The operation the machine runs next, and the state it runs in; none when no unit has an enabled operation.
Where both units have one, `turn` says which moves, and the next `turn` is a free value (20_memory R68). -/
def fetch (s : State) : Option (Instr × State) :=
  match selectEnc s, selectDec s with
  | none, none => none
  | some i, none => some (i, consumePulse i s)
  | none, some j => some (j, consumePulse j s)
  | some i, some j =>
    match s.turn with
    | .enc => some (i, consumePulse i (drawTurn s))
    | .dec => some (j, consumePulse j (drawTurn s))

/-- The host puts the word of an operation where the encoder or the decoder finds it next, and lets that unit move next:
a reset pulse raised, or a word put at the head of the token port with no reset before it (30_encoding R81, R82).
DESIGN CHOICE, log entries 13 and 23: the word stands at the head, ahead of what waits there, while a host's `present` appends
it; in a loopback a decoder's word so stands ahead of what the encoder has appended and the decoder has not taken. -/
def presentNext (i : Instr) (s : State) : State :=
  match i with
  | .encReset => { s with encRst := true, turn := .enc }
  | .encBit d => { s with encIn := wordOf (.bit d) :: s.encIn, encRst := false, turn := .enc }
  | .encEnd => { s with encIn := wordOf .last :: s.encIn, encRst := false, turn := .enc }
  | .decReset => { s with decRst := true, turn := .dec }
  | .decFbit d => { s with decIn := wordOf (.bit d) :: s.decIn, decRst := false, turn := .dec }
  | .decEnd => { s with decIn := wordOf .last :: s.decIn, decRst := false, turn := .dec }

/-- The host presents the table word `w` of `nbits` bits as the very next operation; a word that selects no operation
changes nothing. -/
def presentTableWord (s : State) (nbits w : Nat) : State :=
  match decodeTableWord nbits w with
  | some i => presentNext i s
  | none => s

end Sys2Proof.Machine
end

