-- ==== Sys2Proof/Machine/Step.lean ====
section
/-! DEFINITION. One step of CORE: one atomic operation of one unit (30_encoding R80, 20_memory R61), or no step. -/

namespace Sys2Proof.Machine

/-- One step: the next operation runs; with no enabled operation there is no step (20_memory R72, 42_control R173). -/
def step (s : State) : Host.Outcome State Fault Refusal :=
  match fetch s with
  | some (i, t) => exec i t
  | none => .refused .idle

/-- `s` with the table word `w` of `nbits` bits presented so that the very next step runs it (log entries 12, 13). -/
def State.withFetchWord (s : State) (nbits w : Nat) : State := presentTableWord s nbits w

end Sys2Proof.Machine
end

