-- ==== Sys2Proof/Machine/Codec.lean ====
section
/-! DEFINITION. The pure functions of 00_scope R13 over bit and field sequences, and the notions stated with them: the canonical form (30_encoding R92) and the size of the encoder's output (30_encoding R97). -/

namespace Sys2Proof.Machine

/-- `split` with explicit fuel: `n` is at most `fuel` times the saturation value, plus one saturation value. -/
def splitFuel (max : Nat) : Nat → Nat → List Nat
  | 0, n => [n]
  | fuel + 1, n => if n ≤ max then [n] else max :: 0 :: splitFuel max fuel (n - max)

/-- `split_W(n)`: the fields of a run of `n` bits (00_scope R13). `n` is fuel enough, because `MAX >= 1`. -/
def split (c : Config) (n : Nat) : List Nat := splitFuel c.max n n

/-- The lengths of the maximal runs of `b`, when `n` bits of value `cur` have just been seen. -/
def runsFrom (cur : Bit) (n : Nat) : List Bit → List Nat
  | [] => [n]
  | b :: bs => if b = cur then runsFrom cur (n + 1) bs else n :: runsFrom b 1 bs

/-- `maxruns(b)`: the lengths, in order, of the maximal runs of `b` (00_scope R13). -/
def maxRuns : List Bit → List Nat
  | [] => []
  | b :: bs => runsFrom b 1 bs

/-- `runs_P0(b)` (00_scope R13). -/
def runs (p0 : Bit) (b : List Bit) : List Nat :=
  match b with
  | [] => [0]
  | h :: _ => if h = p0 then maxRuns b else 0 :: maxRuns b

/-- `encode_W_P0(b)` (00_scope R13). -/
def encodeBits (c : Config) (b : List Bit) : List Nat := (runs c.P0 b).flatMap (split c)

/-- `decode_W_P0(f)`: field `i` has polarity `P0 XOR (i mod 2)` (00_scope R13). -/
def decodeFields (p0 : Bit) : List Nat → List Bit
  | [] => []
  | n :: f => List.replicate n p0 ++ decodeFields (!p0) f

/-- The serialised bits of a field sequence, field after field (20_memory R54). -/
def serFields (c : Config) (f : List Nat) : List Bit := f.flatMap (ser c.W)

/-- `k(n)`: how many escapes a run of `n` bits takes, `ceil(n / MAX) - 1` above `MAX`, else 0 (30_encoding R97). -/
def escapes (c : Config) (n : Nat) : Nat :=
  if n ≤ c.max then 0 else (n + c.max - 1) / c.max - 1

/-- The canonical form of 30_encoding R92: at least one field, every value in `0 .. MAX`, and (a) the last field is not 0
unless it is the only one, (b) a field that is neither the first nor the last is 0 only directly after a field `MAX`. -/
def Canonical (c : Config) (f : List Nat) : Prop :=
  1 ≤ f.length ∧ (∀ v ∈ f, v ≤ c.max) ∧
  (f.length = 1 ∨ f[f.length - 1]? ≠ some 0) ∧
  (∀ i, 0 < i → i < f.length - 1 → f[i]? = some 0 → f[i - 1]? = some c.max)

end Sys2Proof.Machine
end

