-- ==== Sys2Proof/Machine/Program.lean ====
section
/-! DEFINITION. Programs: sequences of operations presented to the units (30_encoding R93; 95_test_vectors section 3), the pseudo-operations of 30_encoding R94, and the host's actions around a run (70_reset R231). -/

namespace Sys2Proof.Machine

/-- The host appends the word of a token operation to its unit's input channel; a reset takes no token (20_memory R51).
DESIGN CHOICE, log entry 23: in a loopback the decoder's input channel is `ENC_OUT` too, and a word the host presents there
stands behind what the encoder has appended so far; 20_memory R68 speaks of no such word. -/
def State.present (i : Instr) (s : State) : State :=
  match i with
  | .encReset => s
  | .encBit d => { s with encIn := s.encIn ++ [wordOf (.bit d)] }
  | .encEnd => { s with encIn := s.encIn ++ [wordOf .last] }
  | .decReset => s
  | .decFbit d => { s with decIn := s.decIn ++ [wordOf (.bit d)] }
  | .decEnd => { s with decIn := s.decIn ++ [wordOf .last] }

/-- The host raises a unit's reset input (30_encoding R82). -/
def State.pulseReset (u : UnitId) (s : State) : State :=
  match u with
  | .enc => { s with encRst := true }
  | .dec => { s with decRst := true }

/-- The host removes what stands on a unit's input channel and leaves its output channel alone (70_reset R231, program P6).
In a loopback the decoder's input channel is `ENC_OUT` too (DESIGN CHOICE, log entry 22). -/
def State.drainInput (u : UnitId) (s : State) : State :=
  match u with
  | .enc => { s with encIn := [] }
  | .dec => { s with decIn := [] }

/-- The host discards what stands on a unit's output channel (70_reset R231), which in a loopback is for the encoder the
channel it shares with the decoder. DESIGN CHOICE, log entry 22: the whole channel, closed output of earlier runs included,
where R231 asks for the unclosed piece of an abandoned run. -/
def State.discardOutput (u : UnitId) (s : State) : State :=
  match u with
  | .enc => { s with encOut := [], decIn := if s.loopback then [] else s.decIn }
  | .dec => { s with decOut := [] }

/-- The host drains a unit's input channel and discards what stands on its output channel (70_reset R231). DESIGN CHOICE,
log entry 22: both at once and whole, earlier runs' closed output included, and in a loopback draining either unit discards
what the decoder has not yet taken from the shared channel. A host that keeps the output, as in program P6, does
`drainInput` alone. -/
def State.drain (u : UnitId) (s : State) : State := (s.drainInput u).discardOutput u

/-- A program run operation by operation: each is presented by the host and then executed by its unit. -/
def drive : List Instr → State → Result
  | [], s => .next s
  | i :: is, s =>
    match exec i (s.present i) with
    | .next t => drive is t
    | .fault f => .fault f
    | .refused r => .refused r

/-- `ENC.RUN b, n` (30_encoding R94). -/
def encRun (b : Bit) (n : Nat) : List Instr := List.replicate n (.encBit b)

/-- `ENC.BITS "s"` (30_encoding R94). -/
def encBits (s : List Bit) : List Instr := s.map .encBit

/-- `ENC.STREAM "s"` (30_encoding R94). -/
def encStream (s : List Bit) : List Instr := .encReset :: encBits s ++ [.encEnd]

/-- The bits of a field stream presented one by one (41_decoder R140). -/
def decBits (s : List Bit) : List Instr := s.map .decFbit

/-- `DEC.FIELD v` (30_encoding R94), which the spec defines for `0 <= v <= MAX` and at `DEC.nb = 0` only. DESIGN CHOICE, log
entry 24: the expansion is total; above `MAX` it is that of the low W bits of `v`, and it can be driven at any `nb`. -/
def decField (c : Config) (v : Nat) : List Instr := decBits (ser c.W v)

/-- `DEC.FIELDS [v0, v1, ...]` (30_encoding R94); total as `decField` is (log entry 24). -/
def decFieldsOps (c : Config) (f : List Nat) : List Instr := f.flatMap (decField c)

/-- `DEC.STREAM [v0, v1, ...]` (30_encoding R94); total as `decField` is (log entry 24). -/
def decStream (c : Config) (f : List Nat) : List Instr := .decReset :: decFieldsOps c f ++ [.decEnd]

/-- The bit words of a channel, in order. -/
def bitWords (s : List Bit) : List Word := s.map fun b => wordOf (.bit b)

/-- The words of a field sequence on a channel (20_memory R54). -/
def fieldWords (c : Config) (f : List Nat) : List Word := bitWords (serFields c f)

/-- The Format T words of one run's input: the bits, then `END` (20_memory R51). -/
def runWords (s : List Bit) : List Word := bitWords s ++ [wordOf .last]

/-- The boundary's `hasMoreBits()`: true when the head is `BIT(b)`, false when it is `END`, no answer while the channel is
empty and the boundary has not yet said (20_memory R53, R72). The boundary's other functions are the primitives of
Machine/Ops.lean: `readBit` is Take, `writeBit` is OutBit, `writeField` is EmitField, `close` answers OutClose, and
`readField` is `decField`. -/
def hasMoreBits (ch : List Word) : Option Bool :=
  (ch.head?).map fun w => tokenOf w != .last

/-- The decoder's operations that the words of a channel select when they stand on `DEC_IN`: the host carries one unit's
output to the other's input, `CLOSE` reading as `END` (20_memory R68, 30_encoding R84). -/
def decOpsOf (ws : List Word) : List Instr := ws.map fun w => tokenInstr .dec (tokenOf w)

end Sys2Proof.Machine
end

