-- ==== Sys2Proof/Safety.lean ====
section
/-! DEFINITION. What a safe state and a valid result are: the invariants of the two units (10_state R36, R37, R29; 40_encoder R117, R118; 60_exceptions R192), the end of a run (42_control R178) and its result (20_memory R69). -/

namespace Sys2Proof.Machine

/-- The encoder's registers are within their widths, and since the first reset: the error register and FAULT agree and no
error is ever raised (10_state R29, 60_exceptions R192); the counter is 0 only before the first bit (10_state R36), so no
field has been emitted in RUN and the one field 0 in DONE (40_encoder R123); every emitted field is in range
(40_encoder R117); in RUN the polarity alternates with the number of fields (40_encoder R118), and `ENC.END` has emitted
one more field without a toggle (40_encoder R115); the run's output is the serialised fields, followed by `CLOSE` in DONE
(10_state R33). -/
structure EncInv (c : Config) (e : Enc) : Prop where
  cnt_le : e.cnt ≤ c.max
  no_fault : e.live = true → e.phase ≠ .fault
  no_err : e.live = true → e.err = .noError
  zero_run : e.live = true → e.phase = .run → e.cnt = 0 → e.fields = []
  zero_done : e.live = true → e.phase = .done → e.cnt = 0 → e.fields = [0]
  fields_le : e.live = true → ∀ v ∈ e.fields, v ≤ c.max
  pol_run : e.live = true → e.phase = .run → e.pol = (c.P0 ^^ decide (e.fields.length % 2 = 1))
  pol_done : e.live = true → e.phase = .done → e.pol = (c.P0 ^^ decide (e.fields.length % 2 = 0))
  out_run : e.live = true → e.phase = .run → e.out = fieldWords c e.fields
  out_done : e.live = true → e.phase = .done → e.out = fieldWords c e.fields ++ [wordOfOut .close]

/-- The decoder's registers are within their widths, and since the first reset: the shift register holds the bits of the
current field only (10_state R37), the error register and FAULT agree (10_state R29), and the only error is FormatError,
raised inside a field (60_exceptions R190, R191); the run's output holds bits only, followed by one `CLOSE` in DONE
(20_memory R51). -/
structure DecInv (c : Config) (r : Dec) : Prop where
  nb_lt : r.nb < c.W
  sh_lt : r.sh < 2 ^ c.W
  sh_field : r.live = true → r.sh < 2 ^ r.nb
  err_iff : r.live = true → (r.err ≠ .noError ↔ r.phase = .fault)
  err_kind : r.live = true → r.err ≠ .fieldOverflow
  err_inside : r.live = true → r.err = .formatError → r.nb ≠ 0
  out_open : r.live = true → r.phase ≠ .done → ∃ b, r.out = bitWords b
  out_done : r.live = true → r.phase = .done → ∃ b, r.out = bitWords b ++ [wordOfOut .close]

/-- The invariant of the whole machine: that of each unit under its own configuration (10_state R36, R37). -/
structure State.Inv (s : State) : Prop where
  enc : EncInv s.encCfg s.enc
  dec : DecInv s.decCfg s.dec

/-- A unit's run is over when its phase is DONE or FAULT (42_control R178). -/
def State.runOver (u : UnitId) (s : State) : Bool :=
  match u with
  | .enc => s.enc.live && s.enc.phase != .run
  | .dec => s.dec.live && s.dec.phase != .run

/-- The `BIT` tokens before the first `CLOSE` of a sequence of words; none while there is no `CLOSE` (20_memory R69). -/
def resultOf : List Word → Option (List Bit)
  | [] => none
  | w :: ws =>
    match tokenOf w with
    | .last => some []
    | .bit b => (resultOf ws).map (b :: ·)

/-- The result of the decoder's current run: the `BIT` tokens the run appended to `DEC_OUT` before its `CLOSE`
(20_memory R69), whatever earlier runs left on the channel and whatever was taken from it since (log entry 21); there is
one only in DONE without an error (60_exceptions R211). -/
def State.decResult (s : State) : Option (List Bit) :=
  if s.dec.live ∧ s.dec.phase = .done ∧ s.dec.err = .noError then resultOf s.dec.out else none

/-- The result of the encoder's current run, as the bits of its field stream: the `BIT` tokens the run appended to
`ENC_OUT` before its `CLOSE` (20_memory R69), whatever earlier runs left on the channel and, in a loopback, whatever the
decoder has taken from it since (DESIGN CHOICE, log entry 21); there is one only in DONE without an error. -/
def State.encResult (s : State) : Option (List Bit) :=
  if s.enc.live ∧ s.enc.phase = .done ∧ s.enc.err = .noError then resultOf s.enc.out else none

/-- A channel that holds no reserved output word `11` (30_encoding R84). -/
def noReservedWord (ws : List Word) : Bool := ws.all (· ≠ 0b11#2)

end Sys2Proof.Machine
end

