-- ==== Sys2Proof/Certificates/Slice0/Obligations.lean ====
section
/-! DEFINITION. The statements about CORE, each formalising numbered rules of spec/ (OBLIGATIONS.json says which). -/

open Sys2Proof Sys2Proof.Machine

/-! ## Single operations: effect, completion and frame in one equation -/

/-- `ENC.RESET` completes in every state and sets every encoder register to its reset value; nothing else changes: no
token is taken or appended (42_control R170; mid-run too, R179). `live` and the ghost `out` are the model's own fields
(log entries 3 and 21). -/
def Obligations.EncResetSetsEveryRegister : Prop :=
  ∀ s : State,
    exec .encReset s =
      .next { s with
        enc := { live := true, cnt := 0, pol := s.encCfg.P0, phase := .run, err := .noError, fields := [], out := [] } }

/-- `DEC.RESET` completes in every state and sets every decoder register to its reset value; nothing else changes
(42_control R171). `live` and the ghost `out` are the model's own fields (log entries 3 and 21). -/
def Obligations.DecResetSetsEveryRegister : Prop :=
  ∀ s : State,
    exec .decReset s =
      .next { s with
        dec := { live := true, pol := s.decCfg.P0, sh := 0, nb := 0, phase := .run, err := .noError, out := [] } }

/-- `ENC.BIT d`, count arm (40_encoder R112): the counter grows by one and still fits, the token is taken, and nothing
else changes: nothing is emitted, the polarity stays. -/
def Obligations.EncBitCountsBelowSaturation : Prop :=
  ∀ (s : State) (d : Bit) (w : Word) (rest : List Word),
    s.enc.running = true → s.encIn = w :: rest → tokenOf w = .bit d →
    d = s.enc.pol → s.enc.cnt < s.encCfg.max →
      exec (.encBit d) s = .next { s with encIn := rest, enc := { s.enc with cnt := s.enc.cnt + 1 } } ∧
      s.enc.cnt + 1 ≤ s.encCfg.max

/-- `ENC.BIT d`, escape arm (40_encoder R113): on a matching bit at the saturated counter the fields `MAX` and 0 are
emitted in this order on `ENC_OUT` (in loopback: the same channel as `DEC_IN`), the counter becomes 1, the polarity is not
toggled. The escape is lazy: the matching bit that brings the counter to `MAX` emits nothing. The model's own ghost `out`
(log entry 21) records what was emitted, here and in the statements below. -/
def Obligations.EncBitEscapesAtSaturation : Prop :=
  (∀ (s : State) (d : Bit) (w : Word) (rest : List Word),
    s.enc.running = true → s.encIn = w :: rest → tokenOf w = .bit d →
    d = s.enc.pol → s.enc.cnt = s.encCfg.max →
      exec (.encBit d) s =
        .next { s with
          encIn := rest
          encOut := if s.loopback then s.encOut else s.encOut ++ fieldWords s.encCfg [s.encCfg.max, 0]
          decIn := if s.loopback then s.decIn ++ fieldWords s.encCfg [s.encCfg.max, 0] else s.decIn
          enc := { s.enc with
            cnt := 1
            fields := s.enc.fields ++ [s.encCfg.max, 0]
            out := s.enc.out ++ fieldWords s.encCfg [s.encCfg.max, 0] } }) ∧
  (∀ (s : State) (d : Bit) (w : Word) (rest : List Word),
    s.enc.running = true → s.encIn = w :: rest → tokenOf w = .bit d →
    d = s.enc.pol → s.enc.cnt + 1 = s.encCfg.max →
      exec (.encBit d) s = .next { s with encIn := rest, enc := { s.enc with cnt := s.encCfg.max } })

/-- `ENC.BIT d`, flip arm (40_encoder R114): on a differing bit the counter is emitted as one field, whatever its value in
`0 .. MAX`, the counter becomes 1 and the polarity toggles. -/
def Obligations.EncBitFlipsOnDifferingBit : Prop :=
  ∀ (s : State) (d : Bit) (w : Word) (rest : List Word),
    s.enc.running = true → s.encIn = w :: rest → tokenOf w = .bit d →
    d ≠ s.enc.pol → s.enc.cnt ≤ s.encCfg.max →
      exec (.encBit d) s =
        .next { s with
          encIn := rest
          encOut := if s.loopback then s.encOut else s.encOut ++ fieldWords s.encCfg [s.enc.cnt]
          decIn := if s.loopback then s.decIn ++ fieldWords s.encCfg [s.enc.cnt] else s.decIn
          enc := { s.enc with
            cnt := 1
            pol := !s.enc.pol
            fields := s.enc.fields ++ [s.enc.cnt]
            out := s.enc.out ++ fieldWords s.encCfg [s.enc.cnt] } }

/-- `ENC.END` (40_encoder R115): the counter is emitted as one field, then `CLOSE`, and the phase becomes DONE; the
counter, the polarity and the error register keep their values. Both words of `END` (`10` and `11`) do it. -/
def Obligations.EncEndEmitsAndCloses : Prop :=
  ∀ (s : State) (w : Word) (rest : List Word),
    s.enc.running = true → s.encIn = w :: rest → tokenOf w = .last →
    s.enc.cnt ≤ s.encCfg.max →
      exec .encEnd s =
        .next { s with
          encIn := rest
          encOut := if s.loopback then s.encOut
            else s.encOut ++ (fieldWords s.encCfg [s.enc.cnt] ++ [wordOfOut .close])
          decIn := if s.loopback then s.decIn ++ (fieldWords s.encCfg [s.enc.cnt] ++ [wordOfOut .close])
            else s.decIn
          enc := { s.enc with
            phase := .done
            fields := s.enc.fields ++ [s.enc.cnt]
            out := s.enc.out ++ (fieldWords s.encCfg [s.enc.cnt] ++ [wordOfOut .close]) } }

/-- A value above `MAX` offered to `EmitField` raises FieldOverflow: the token is taken, nothing is emitted, the error and
the phase are recorded, everything else stays (00_scope R12, 60_exceptions R198). `State.Inv` rules such states out. -/
def Obligations.OversizedCounterRaisesFieldOverflow : Prop :=
  (∀ (s : State) (d : Bit) (w : Word) (rest : List Word),
    s.enc.running = true → s.encIn = w :: rest → tokenOf w = .bit d →
    d ≠ s.enc.pol → s.encCfg.max < s.enc.cnt →
      exec (.encBit d) s =
        .next { s with encIn := rest, enc := { s.enc with err := .fieldOverflow, phase := .fault } }) ∧
  (∀ (s : State) (w : Word) (rest : List Word),
    s.enc.running = true → s.encIn = w :: rest → tokenOf w = .last →
    s.encCfg.max < s.enc.cnt →
      exec .encEnd s =
        .next { s with encIn := rest, enc := { s.enc with err := .fieldOverflow, phase := .fault } })

/-- `DEC.FBIT d`, shift arm (41_decoder R141): the bit enters the shift register at bit 0, the bit index grows by one,
nothing is emitted, the polarity stays; with `W = 1` the arm's condition never holds. -/
def Obligations.DecFbitShiftsInsideField : Prop :=
  (∀ (s : State) (d : Bit) (w : Word) (rest : List Word),
    s.dec.running = true → s.decIn = w :: rest → tokenOf w = .bit d →
    s.dec.nb < s.decCfg.W - 1 →
      exec (.decFbit d) s =
        .next { s with decIn := rest, dec := { s.dec with sh := 2 * s.dec.sh + d.num, nb := s.dec.nb + 1 } }) ∧
  (∀ s : State, s.decCfg.W = 1 → ¬ s.dec.nb < s.decCfg.W - 1)

/-- `DEC.FBIT d`, complete arm (41_decoder R142): with `n = 2 * sh + d`, `n` bits of the polarity before the operation are
appended, then the polarity toggles and the shift register and the bit index clear; `n = 0` appends nothing and toggles. -/
def Obligations.DecFbitCompletesField : Prop :=
  ∀ (s : State) (d : Bit) (w : Word) (rest : List Word),
    s.dec.running = true → s.decIn = w :: rest → tokenOf w = .bit d →
    s.dec.nb = s.decCfg.W - 1 →
      exec (.decFbit d) s =
        .next { s with
          decIn := rest
          decOut := s.decOut ++ List.replicate (2 * s.dec.sh + d.num) (wordOfOut (.bit s.dec.pol))
          dec := { s.dec with
            pol := !s.dec.pol
            sh := 0
            nb := 0
            out := s.dec.out ++ List.replicate (2 * s.dec.sh + d.num) (wordOfOut (.bit s.dec.pol)) } }

/-- `DEC.END` (41_decoder R143): on a field boundary `CLOSE` is appended and the phase becomes DONE; inside a field it
raises FormatError, which records the error and the phase and appends nothing (60_exceptions R198). In both branches the
polarity, the shift register and the bit index keep their values. -/
def Obligations.DecEndClosesOrRaisesFormatError : Prop :=
  (∀ (s : State) (w : Word) (rest : List Word),
    s.dec.running = true → s.decIn = w :: rest → tokenOf w = .last → s.dec.nb = 0 →
      exec .decEnd s =
        .next { s with
          decIn := rest
          decOut := s.decOut ++ [wordOfOut .close]
          dec := { s.dec with phase := .done, out := s.dec.out ++ [wordOfOut .close] } }) ∧
  (∀ (s : State) (w : Word) (rest : List Word),
    s.dec.running = true → s.decIn = w :: rest → tokenOf w = .last → s.dec.nb ≠ 0 →
      exec .decEnd s =
        .next { s with decIn := rest, dec := { s.dec with err := .formatError, phase := .fault } })

/-! ## When an operation is enabled, and one step -/

/-- Tokens are taken only in RUN after a reset (42_control R173, 70_reset R220): a token operation of a unit that is in
DONE, in FAULT or not reset since power-on is no step, refused by the unit's name (log entry 4). -/
def Obligations.TokenOperationsOnlyInRun : Prop :=
  (∀ (s : State) (d : Bit), s.enc.live = false ∨ s.enc.phase ≠ .run →
    exec (.encBit d) s = .refused (.notEnabled .enc)) ∧
  (∀ s : State, s.enc.live = false ∨ s.enc.phase ≠ .run → exec .encEnd s = .refused (.notEnabled .enc)) ∧
  (∀ (s : State) (d : Bit), s.dec.live = false ∨ s.dec.phase ≠ .run →
    exec (.decFbit d) s = .refused (.notEnabled .dec)) ∧
  (∀ s : State, s.dec.live = false ∨ s.dec.phase ≠ .run → exec .decEnd s = .refused (.notEnabled .dec))

/-- A token operation is caused by its own token at the head of its unit's input channel (30_encoding R80): with an empty
channel or another token there, it is no step. -/
def Obligations.TokenOperationNeedsItsTokenAtTheHead : Prop :=
  (∀ (s : State) (d : Bit), (s.encIn.head?).map tokenOf ≠ some (.bit d) →
    exec (.encBit d) s = .refused (.notEnabled .enc)) ∧
  (∀ s : State, (s.encIn.head?).map tokenOf ≠ some .last → exec .encEnd s = .refused (.notEnabled .enc)) ∧
  (∀ (s : State) (d : Bit), (s.decIn.head?).map tokenOf ≠ some (.bit d) →
    exec (.decFbit d) s = .refused (.notEnabled .dec)) ∧
  (∀ s : State, (s.decIn.head?).map tokenOf ≠ some .last → exec .decEnd s = .refused (.notEnabled .dec))

/-- A machine with no enabled operation takes no step (20_memory R72, 42_control R173): with no reset input raised, each
unit out of RUN or with an empty input channel waits; an empty channel raises no error. -/
def Obligations.NothingEnabledIsNoStep : Prop :=
  ∀ s : State, s.encRst = false → s.decRst = false →
    (s.enc.running = false ∨ s.encIn = []) → (s.dec.running = false ∨ s.decIn = []) →
      step s = .refused .idle

/-- A reset has priority over a token presented at the same time (30_encoding R82, 60_exceptions R200): with the other
unit at rest, the step is the reset, and the input channel keeps its tokens. -/
def Obligations.ResetHasPriorityOverToken : Prop :=
  (∀ s : State, s.encRst = true → selectDec s = none →
    step s = .next { s with encRst := false, enc := Enc.init s.encCfg }) ∧
  (∀ s : State, s.decRst = true → selectEnc s = none →
    step s = .next { s with decRst := false, dec := Dec.init s.decCfg })

/-- A step runs the decoded operation (30_encoding R86): the operation that the word at the head of a unit's token port
decodes to is executed when the other unit has none enabled; when both have one, the unit that `turn` names moves, and
the next `turn` is a free value. -/
def Obligations.StepRunsTheDecodedOperation : Prop :=
  (∀ (s : State) (w : Word) (rest : List Word) (i : Instr),
    s.encRst = false → s.enc.running = true → s.encIn = w :: rest → decode .encIn w.toNat = .ok i →
    selectDec s = none → step s = exec i s) ∧
  (∀ (s : State) (w : Word) (rest : List Word) (i : Instr),
    s.decRst = false → s.dec.running = true → s.decIn = w :: rest → decode .decIn w.toNat = .ok i →
    selectEnc s = none → step s = exec i s) ∧
  (∀ (s : State) (i j : Instr), selectEnc s = some i → selectDec s = some j → s.turn = .enc →
    step s = exec i (consumePulse i { s with turn := Config.freeTurn s.tick, tick := s.tick + 1 })) ∧
  (∀ (s : State) (i j : Instr), selectEnc s = some i → selectDec s = some j → s.turn = .dec →
    step s = exec j (consumePulse j { s with turn := Config.freeTurn s.tick, tick := s.tick + 1 }))

/-! ## Encodings -/

/-- The words of opcode_table.json and of 30_encoding R81, R82 and R86 decode to their operations, and a reset input of 0
and a word too wide are refused by name. -/
def Obligations.SpecWordsDecodeToTheirOperations : Prop :=
  decode .encRst 1 = .ok .encReset ∧ decode .encRst 0 = .error .noOperation ∧
  decode .encIn 0b00 = .ok (.encBit false) ∧ decode .encIn 0b01 = .ok (.encBit true) ∧
  decode .encIn 0b10 = .ok .encEnd ∧ decode .encIn 0b11 = .ok .encEnd ∧
  decode .decRst 1 = .ok .decReset ∧ decode .decRst 0 = .error .noOperation ∧
  decode .decIn 0b00 = .ok (.decFbit false) ∧ decode .decIn 0b01 = .ok (.decFbit true) ∧
  decode .decIn 0b10 = .ok .decEnd ∧ decode .decIn 0b11 = .ok .decEnd ∧
  decode .encIn 4 = .error .wordTooWide

/-- Decode and encode agree: every operation is decoded from the port and word that encode it, and every word that decodes
to an operation is that operation's word on that port, but for the ignored data bit of `END` (30_encoding R86, R88). -/
def Obligations.DecodeAndEncodeAgree : Prop :=
  (∀ i : Instr, i.wf = true → decode (encode i).1 (encode i).2 = .ok i) ∧
  (∀ (p : Port) (w : Nat) (i : Instr), decode p w = .ok i →
    (encode i).1 = p ∧ ((encode i).2 = w ∨ ((i = .encEnd ∨ i = .decEnd) ∧ w = 0b11)))

/-- Serialising and deserialising a field are inverse (00_scope R13), for every width. -/
def Obligations.SerialisingAFieldIsLossless : Prop :=
  (∀ w v : Nat, v < 2 ^ w → deser (ser w v) = v) ∧
  (∀ b : List Bit, ser b.length (deser b) = b)

/-- An output word is one of `00`, `01`, `10` and never `11`, and read on an input port it is the same token, `CLOSE`
reading as `END` (30_encoding R84). -/
def Obligations.OutputWordsReadAsInputTokens : Prop :=
  (∀ b : Bit, tokenOf (wordOfOut (.bit b)) = .bit b) ∧ tokenOf (wordOfOut .close) = .last ∧
  (wordOfOut (.bit false) = 0b00#2 ∧ wordOfOut (.bit true) = 0b01#2 ∧ wordOfOut .close = 0b10#2) ∧
  (∀ t : OutToken, wordOfOut t ≠ 0b11#2)

/-- The status outputs carry the codes of 10_state R28 and 60_exceptions R190, and code 11 is never shown. -/
def Obligations.StatusOutputsCarryTheSpecsCodes : Prop :=
  Phase.run.code = 0b00#2 ∧ Phase.done.code = 0b01#2 ∧ Phase.fault.code = 0b10#2 ∧
  Err.noError.code = 0b00#2 ∧ Err.formatError.code = 0b01#2 ∧ Err.fieldOverflow.code = 0b10#2 ∧
  (∀ s : State, s.observe.encPhase = s.enc.phase.code ∧ s.observe.encErr = s.enc.err.code ∧
    s.observe.decPhase = s.dec.phase.code ∧ s.observe.decErr = s.dec.err.code ∧
    s.observe.encPhase ≠ 0b11#2 ∧ s.observe.encErr ≠ 0b11#2 ∧
    s.observe.decPhase ≠ 0b11#2 ∧ s.observe.decErr ≠ 0b11#2)

/-! ## Whole-machine rules -/

/-- The frame of every operation (10_state R26): the registers, channels and inputs an operation does not write keep
their values, in every state in which it completes. An encoder operation touches `DEC_IN` only when the host has wired
`ENC_OUT` to it. The one exception to R26's row of `ENC.BIT` and `ENC.END` is a counter above `MAX`, which raises. -/
def Obligations.OperationsLeaveTheRestUnchanged : Prop :=
  ∀ (i : Instr) (s t : State), exec i s = .next t →
    (t.encCfg = s.encCfg ∧ t.decCfg = s.decCfg ∧ t.loopback = s.loopback ∧ t.encRst = s.encRst ∧ t.decRst = s.decRst ∧
      t.turn = s.turn ∧ t.tick = s.tick) ∧
    (match i with
      | .encReset => t.dec = s.dec ∧ t.encIn = s.encIn ∧ t.encOut = s.encOut ∧ t.decIn = s.decIn ∧ t.decOut = s.decOut
      | .encBit _ => t.dec = s.dec ∧ t.decOut = s.decOut ∧ (s.loopback = false → t.decIn = s.decIn) ∧
          (s.loopback = true → t.encOut = s.encOut) ∧ t.enc.live = s.enc.live ∧
          (s.enc.cnt ≤ s.encCfg.max → t.enc.phase = s.enc.phase ∧ t.enc.err = s.enc.err)
      | .encEnd => t.dec = s.dec ∧ t.decOut = s.decOut ∧ (s.loopback = false → t.decIn = s.decIn) ∧
          (s.loopback = true → t.encOut = s.encOut) ∧ t.enc.live = s.enc.live ∧
          t.enc.cnt = s.enc.cnt ∧ t.enc.pol = s.enc.pol ∧ (s.enc.cnt ≤ s.encCfg.max → t.enc.err = s.enc.err)
      | .decReset => t.enc = s.enc ∧ t.encIn = s.encIn ∧ t.encOut = s.encOut ∧ t.decIn = s.decIn ∧ t.decOut = s.decOut
      | .decFbit _ => t.enc = s.enc ∧ t.encIn = s.encIn ∧ t.encOut = s.encOut ∧ t.dec.live = s.dec.live ∧
          t.dec.phase = s.dec.phase ∧ t.dec.err = s.dec.err
      | .decEnd => t.enc = s.enc ∧ t.encIn = s.encIn ∧ t.encOut = s.encOut ∧ t.dec.live = s.dec.live ∧
          t.dec.pol = s.dec.pol ∧ t.dec.sh = s.dec.sh ∧ t.dec.nb = s.dec.nb ∧
          (s.dec.nb = 0 → t.dec.err = s.dec.err))

/-- No step writes the configuration inputs or the host's wiring (00_scope R9, 20_memory R70). -/
def Obligations.NoStepChangesTheConfiguration : Prop :=
  ∀ s t : State, step s = .next t →
    t.encCfg = s.encCfg ∧ t.decCfg = s.decCfg ∧ t.loopback = s.loopback

/-- All phase transitions (42_control R172), from every state; DONE and FAULT are left only by RESET, because every token
operation starts in RUN. -/
def Obligations.PhaseMovesOnlyAsTheTableSays : Prop :=
  ∀ (i : Instr) (s t : State), exec i s = .next t →
    match i with
    | .encReset => t.enc.phase = .run ∧ t.dec.phase = s.dec.phase
    | .encBit d => s.enc.phase = .run ∧ t.dec.phase = s.dec.phase ∧
        t.enc.phase = if d ≠ s.enc.pol ∧ s.encCfg.max < s.enc.cnt then .fault else .run
    | .encEnd => s.enc.phase = .run ∧ t.dec.phase = s.dec.phase ∧
        t.enc.phase = if s.encCfg.max < s.enc.cnt then .fault else .done
    | .decReset => t.dec.phase = .run ∧ t.enc.phase = s.enc.phase
    | .decFbit _ => s.dec.phase = .run ∧ t.dec.phase = .run ∧ t.enc.phase = s.enc.phase
    | .decEnd => s.dec.phase = .run ∧ t.enc.phase = s.enc.phase ∧
        t.dec.phase = if s.dec.nb = 0 then .done else .fault

/-- An error register shows an error exactly in FAULT (10_state R29): every step keeps this of each unit that has been
reset, whatever else the state holds. -/
def Obligations.ErrorRegisterAgreesWithFaultPhase : Prop :=
  ∀ s t : State,
    (s.enc.live = true → (s.enc.err ≠ .noError ↔ s.enc.phase = .fault)) →
    (s.dec.live = true → (s.dec.err ≠ .noError ↔ s.dec.phase = .fault)) →
    step s = .next t →
      (t.enc.live = true → (t.enc.err ≠ .noError ↔ t.enc.phase = .fault)) ∧
      (t.dec.live = true → (t.dec.err ≠ .noError ↔ t.dec.phase = .fault))

/-- Which operation can raise what (60_exceptions R195, R191): an error newly shown by the decoder is FormatError, raised
by `DEC.END` inside a field; one newly shown by the encoder is FieldOverflow, raised by a token operation on a counter
above `MAX`. -/
def Obligations.OnlyTheNamedOperationsRaise : Prop :=
  ∀ (i : Instr) (s t : State), exec i s = .next t →
    (t.dec.err ≠ s.dec.err → t.dec.err ≠ .noError → i = .decEnd ∧ s.dec.nb ≠ 0 ∧ t.dec.err = .formatError) ∧
    (t.enc.err ≠ s.enc.err → t.enc.err ≠ .noError →
      (i = .encEnd ∨ ∃ d, i = .encBit d) ∧ s.encCfg.max < s.enc.cnt ∧ t.enc.err = .fieldOverflow)

/-- Channel discipline of every step (20_memory R52): tokens are only appended to an output channel, never the reserved
word `11`, and an input channel loses at most its head token; `DEC_IN` grows only in loopback. -/
def Obligations.ChannelsAreTakenAtHeadAndAppendedAtTail : Prop :=
  ∀ s t : State, step s = .next t →
    (∃ ws, t.encOut = s.encOut ++ ws ∧ noReservedWord ws = true) ∧
    (∃ ws, t.decOut = s.decOut ++ ws ∧ noReservedWord ws = true) ∧
    (t.encIn = s.encIn ∨ ∃ w, s.encIn = w :: t.encIn) ∧
    ((∃ ws, t.decIn = s.decIn ++ ws ∧ noReservedWord ws = true ∧ (s.loopback = false → ws = [])) ∨
      ∃ w, s.decIn = w :: t.decIn)

/-- `ENC_OUT` carries exactly the fields (10_state R33): whatever a token operation of the encoder adds to the ghost list
is what it appends to `ENC_OUT`, serialised, followed by `CLOSE` when it ends in DONE; it holds in every state, the
overflowing ones included. The model's own record `out` of the run's output (log entry 21) grows by the same words. -/
def Obligations.EncOutCarriesTheEmittedFields : Prop :=
  ∀ (i : Instr) (s t : State), (i = .encEnd ∨ ∃ d, i = .encBit d) → exec i s = .next t →
    ∃ new ws, ws = fieldWords s.encCfg new ++ (if t.enc.phase = .done then [wordOfOut .close] else []) ∧
      t.enc.fields = s.enc.fields ++ new ∧
      t.encOutChannel = s.encOutChannel ++ ws ∧
      t.enc.out = s.enc.out ++ ws

/-- The order in which the units step cannot be seen (20_memory R68): an encoder and a decoder operation that are both
enabled can run in either order, with the same state at the end, in loopback too. -/
def Obligations.OperationsOfTheTwoUnitsCommute : Prop :=
  ∀ (i j : Instr) (s t u : State), i.unit = .enc → j.unit = .dec →
    exec i s = .next t → exec j s = .next u →
      ∃ v, exec j t = .next v ∧ exec i u = .next v

/-- Every step keeps the invariant (10_state R36, R37, R29; 40_encoder R117, R118; 60_exceptions R192). -/
def Obligations.EveryStepKeepsTheInvariant : Prop :=
  ∀ s t : State, s.Inv → step s = .next t → t.Inv

/-- The invariant holds after reset, and at power-on whatever the registers hold within their widths, whichever reset
inputs are raised and whichever unit moves first. -/
def Obligations.InvariantHoldsAtResetAndPowerOn : Prop :=
  State.reset.Inv ∧
  ∀ (e : Enc) (d : Dec) (ce cd : Config) (encRst decRst : Bit) (wired : Bool) (turn : UnitId) (tick : Nat),
    e.cnt ≤ ce.max → d.nb < cd.W → d.sh < 2 ^ cd.W →
      (State.powerOn e d ce cd encRst decRst wired turn tick).Inv

/-- FieldOverflow is unreachable (60_exceptions R192): after any number of steps from a state with the invariant, an
encoder that has been reset shows no error and is not in FAULT. -/
def Obligations.FieldOverflowIsUnreachable : Prop :=
  ∀ (k : Nat) (s t : State), s.Inv → Host.Core.run Sys2Proof.core k s = .next t → t.enc.live = true →
    t.enc.err = .noError ∧ t.enc.phase ≠ .fault

/-! ## Laws of the encoder -/

/-- Counter range (40_encoder R117): after `ENC.RESET` and any bits, the counter is in `0 .. MAX`, and 0 exactly when
there was no bit; no FieldOverflow was raised. -/
def Obligations.CounterStaysInRange : Prop :=
  ∀ (s : State) (b : List Bit), s.encIn = [] →
    ∃ t, drive (.encReset :: encBits b) s = .next t ∧
      t.enc.cnt ≤ s.encCfg.max ∧ (t.enc.cnt = 0 ↔ b = []) ∧ t.enc.err = .noError ∧ t.enc.phase = .run

/-- Alternation (40_encoder R118): at every point of a run the encoder's polarity is `P0` flipped once per emitted
field. -/
def Obligations.PolarityAlternatesWithFields : Prop :=
  ∀ (s : State) (b : List Bit), s.encIn = [] →
    ∃ t, drive (.encReset :: encBits b) s = .next t ∧
      t.enc.pol = (s.encCfg.P0 ^^ decide (t.enc.fields.length % 2 = 1))

/-- Bit-count guarantee (40_encoder R119): during a run the fields' sum and the counter make the number of bits taken;
in DONE the fields' sum alone does. -/
def Obligations.FieldsCountTheBitsTaken : Prop :=
  ∀ (s : State) (b : List Bit), s.encIn = [] →
    (∃ t, drive (.encReset :: encBits b) s = .next t ∧ t.enc.fields.sum + t.enc.cnt = b.length) ∧
    (∃ t, drive (encStream b) s = .next t ∧ t.enc.phase = .done ∧ t.enc.fields.sum = b.length)

/-- Determinism (40_encoder R120): what `ENC_OUT` receives in a run is a function of `W`, `P0` and the bits taken, and of
nothing else: two machines that agree on those append the same words. -/
def Obligations.EncoderOutputDependsOnBitsAndParametersOnly : Prop :=
  ∀ (s s' : State) (b : List Bit), s.encCfg = s'.encCfg → s.encIn = [] → s'.encIn = [] →
    ∃ t t' ws, drive (encStream b) s = .next t ∧ drive (encStream b) s' = .next t' ∧
      t.encOutChannel = s.encOutChannel ++ ws ∧ t'.encOutChannel = s'.encOutChannel ++ ws

/-- Functional form of the encoder (40_encoder R121): `ENC.STREAM b` from any state leaves `ENC.fields = encode_W_P0(b)`,
ends in DONE without error, and appends those fields, serialised, and `CLOSE`. -/
def Obligations.EncoderComputesEncode : Prop :=
  ∀ (s : State) (b : List Bit), s.encIn = [] →
    ∃ t, drive (encStream b) s = .next t ∧ t.enc.fields = encodeBits s.encCfg b ∧
      t.enc.phase = .done ∧ t.enc.err = .noError ∧
      t.encOutChannel = s.encOutChannel ++ (fieldWords s.encCfg (encodeBits s.encCfg b) ++ [wordOfOut .close])

/-- The fields of a run of `n >= 1` bits (40_encoder R122): `k` pairs `MAX, 0`, then the rest in `1 .. MAX`, with
`k = ceil(n / MAX) - 1`; a multiple of `MAX` ends in a saturated field, `MAX` bits give one field and `MAX + 1` bits give
exactly one escape. -/
def Obligations.SplitOfARunInClosedForm : Prop :=
  (∀ (c : Config) (n k r : Nat), 1 ≤ n → k = (n + c.max - 1) / c.max - 1 → r = n - k * c.max →
    split c n = (List.replicate k [c.max, 0]).flatten ++ [r] ∧ 1 ≤ r ∧ r ≤ c.max ∧ (split c n).length = 2 * k + 1) ∧
  (∀ (c : Config) (k : Nat), 1 ≤ k →
    (split c (k * c.max)).length = 2 * k - 1 ∧
    split c (k * c.max) = (List.replicate (k - 1) [c.max, 0]).flatten ++ [c.max]) ∧
  (∀ c : Config, split c c.max = [c.max] ∧ split c (c.max + 1) = [c.max, 0, 1])

/-- Whole streams at the edge (40_encoder R123, 90_conflicts C2): the empty input gives `[0]`, the single bit `P0` gives
`[1]`, the single bit `NOT P0` gives `[0, 1]`. -/
def Obligations.EdgeStreamsEncodeAsTheSpecSays : Prop :=
  ∀ s : State, s.encIn = [] →
    (∃ t, drive (encStream []) s = .next t ∧ t.enc.fields = [0]) ∧
    (∃ t, drive (encStream [s.encCfg.P0]) s = .next t ∧ t.enc.fields = [1]) ∧
    (∃ t, drive (encStream [!s.encCfg.P0]) s = .next t ∧ t.enc.fields = [0, 1])

/-- Where zero fields stand in encoder output (40_encoder R124): directly after a field `MAX`, or as field 0 when the
input is empty or begins with `NOT P0`; never at the end but for `[0]` itself, and never two in a row. -/
def Obligations.ZeroFieldsOnlyAfterSaturationOrFirst : Prop :=
  ∀ (c : Config) (b : List Bit),
    (∀ i, (encodeBits c b)[i]? = some 0 →
      (i = 0 ∧ (b = [] ∨ b.head? = some (!c.P0))) ∨ (0 < i ∧ (encodeBits c b)[i - 1]? = some c.max)) ∧
    ((encodeBits c b).getLast? = some 0 → encodeBits c b = [0] ∧ b = []) ∧
    (∀ i, (encodeBits c b)[i]? = some 0 → (encodeBits c b)[i + 1]? ≠ some 0)

/-- The canonical form (30_encoding R92): a field sequence is one the encoder can emit exactly when it is canonical, and
then it is the encoding of what it decodes to. -/
def Obligations.CanonicalFormIsTheEncodersImage : Prop :=
  ∀ (c : Config) (f : List Nat),
    (Canonical c f ↔ ∃ b, encodeBits c b = f) ∧
    (Canonical c f → encodeBits c (decodeFields c.P0 f) = f)

/-- Size of the encoder's output (30_encoding R97): `2 * k(n) + 1` fields for each run of `n` bits, each of `W` bits. -/
def Obligations.SizeOfTheEncodersOutput : Prop :=
  ∀ (c : Config) (b : List Bit),
    (encodeBits c b).length = ((runs c.P0 b).map fun n => 2 * escapes c n + 1).sum ∧
    (serFields c (encodeBits c b)).length = c.W * (encodeBits c b).length

/-! ## Laws of the decoder

Where a statement below drives decoder operations in a loopback, that the words they present enter the channel which is
`ENC_OUT` too is the model's choice (log entry 23); outside a loopback it rests on nothing but the rules. -/

/-- Field-level view (41_decoder R144): on a field boundary, the W bits of a field `v` append `v` bits of the polarity,
toggle it and leave `sh = 0`, `nb = 0`; a proper initial part of them emits nothing. -/
def Obligations.FieldOfWBitsDecodesAtOnce : Prop :=
  ∀ (s : State) (v : Nat), s.dec.running = true → s.dec.nb = 0 → s.dec.sh = 0 → s.decIn = [] → v ≤ s.decCfg.max →
    drive (decField s.decCfg v) s =
      .next { s with
        decOut := s.decOut ++ List.replicate v (wordOfOut (.bit s.dec.pol))
        dec := { s.dec with
          pol := !s.dec.pol
          sh := 0
          nb := 0
          out := s.dec.out ++ List.replicate v (wordOfOut (.bit s.dec.pol)) } } ∧
    ∀ p q, ser s.decCfg.W v = p ++ q → q ≠ [] →
      ∃ t, drive (decBits p) s = .next t ∧ t.decOut = s.decOut

/-- The toggle is unconditional (41_decoder R145): a zero field appends no bit and toggles, so `MAX, 0, r` decodes to one
uninterrupted run. -/
def Obligations.EscapeIsTransparentToTheDecoder : Prop :=
  (∀ (s : State) (d : Bit) (w : Word) (rest : List Word),
    s.dec.running = true → s.decIn = w :: rest → tokenOf w = .bit d → s.dec.nb = s.decCfg.W - 1 →
      ∃ t, exec (.decFbit d) s = .next t ∧ t.dec.pol = !s.dec.pol ∧
        (s.dec.sh = 0 → d = false → t.decOut = s.decOut)) ∧
  (∀ (c : Config) (p : Bit) (r : Nat), decodeFields p [c.max, 0, r] = List.replicate (c.max + r) p)

/-- Decoder invariants (41_decoder R146): after `DEC.RESET` and any bits, `nb` is their number modulo W, `sh` the number
formed by the last `nb` bits, and the polarity `P0` flipped once per completed field. -/
def Obligations.DecoderRegistersAfterAnyBits : Prop :=
  ∀ (s : State) (b : List Bit), s.decIn = [] →
    ∃ t, drive (.decReset :: decBits b) s = .next t ∧
      t.dec.nb = b.length % s.decCfg.W ∧
      t.dec.sh = deser (b.drop (b.length - b.length % s.decCfg.W)) ∧
      t.dec.sh < 2 ^ t.dec.nb ∧
      t.dec.pol = (s.decCfg.P0 ^^ decide (b.length / s.decCfg.W % 2 = 1))

/-- Output length (41_decoder R147): the completed fields append as many bit tokens as their values sum to. -/
def Obligations.OutputLengthIsTheSumOfTheFields : Prop :=
  ∀ (s : State) (f : List Nat), s.decIn = [] → fieldsWf s.decCfg f = true →
    ∃ t ws, drive (.decReset :: decFieldsOps s.decCfg f) s = .next t ∧ t.decOut = s.decOut ++ bitWords ws ∧
      ws.length = f.sum

/-- Prefix property (41_decoder R148): after the first fields of a stream `DEC_OUT` has received what they decode to, a
beginning of what the whole stream decodes to; the decoder is in RUN and has appended no `CLOSE`. -/
def Obligations.FirstFieldsDecodeToAPrefix : Prop :=
  ∀ (s : State) (f g : List Nat), s.decIn = [] → fieldsWf s.decCfg (f ++ g) = true →
    ∃ t rest, drive (.decReset :: decFieldsOps s.decCfg f) s = .next t ∧
      t.decOut = s.decOut ++ bitWords (decodeFields s.decCfg.P0 f) ∧
      decodeFields s.decCfg.P0 (f ++ g) = decodeFields s.decCfg.P0 f ++ rest ∧
      t.dec.phase = .run

/-- Functional form of the decoder (41_decoder R150, R151, 30_encoding R90): `DEC.STREAM f` from any state, for every
field sequence with values in `0 .. MAX`, the empty one included, ends in DONE with `decode_W_P0(f)`, then `CLOSE`. -/
def Obligations.DecoderComputesDecode : Prop :=
  ∀ (s : State) (f : List Nat), s.decIn = [] → fieldsWf s.decCfg f = true →
    ∃ t, drive (decStream s.decCfg f) s = .next t ∧ t.dec.phase = .done ∧ t.dec.err = .noError ∧
      t.decOut = s.decOut ++ (bitWords (decodeFields s.decCfg.P0 f) ++ [wordOfOut .close])

/-- Totality and FormatError (41_decoder R151, R143; 60_exceptions R191): every bit sequence then `END` has a defined
result: DONE when its length is a multiple of W, else FAULT with FormatError. -/
def Obligations.FormatErrorExactlyOnPartialFields : Prop :=
  ∀ (s : State) (b : List Bit), s.decIn = [] →
    ∃ t, drive (.decReset :: decBits b ++ [.decEnd]) s = .next t ∧
      (b.length % s.decCfg.W = 0 → t.dec.phase = .done ∧ t.dec.err = .noError) ∧
      (b.length % s.decCfg.W ≠ 0 → t.dec.phase = .fault ∧ t.dec.err = .formatError)

/-- Progress (70_reset R236): from RUN, any bits and then `END` all complete, one token operation each, and the run is
over; the encoder ends in DONE, the decoder in DONE or FAULT. -/
def Obligations.EveryRunEndsAfterItsTokens : Prop :=
  (∀ (s : State) (b : List Bit), s.enc.running = true → s.encIn = [] → s.enc.cnt ≤ s.encCfg.max →
    ∃ t, drive (encBits b ++ [.encEnd]) s = .next t ∧ t.enc.phase = .done ∧ t.encIn = []) ∧
  (∀ (s : State) (b : List Bit), s.dec.running = true → s.decIn = [] →
    ∃ t, drive (decBits b ++ [.decEnd]) s = .next t ∧ (t.dec.phase = .done ∨ t.dec.phase = .fault) ∧ t.decIn = [])

/-- A wrong starting polarity inverts every decoded bit and raises nothing (41_decoder R153, 70_reset R228). -/
def Obligations.WrongPolarityInvertsTheOutput : Prop :=
  ∀ (p : Bit) (f : List Nat), decodeFields (!p) f = (decodeFields p f).map (!·)

/-- Pad bits that fill whole fields are harmless (70_reset R229): any number of zero fields behind a field stream leaves
what it decodes to unchanged. -/
def Obligations.WholeZeroFieldsOfPaddingAreHarmless : Prop :=
  ∀ (p : Bit) (f : List Nat) (k : Nat), decodeFields p (f ++ List.replicate k 0) = decodeFields p f

/-- When output counts (20_memory R69, 42_control R178, 60_exceptions R211): outside DONE there is no result, after a fault
in particular; a successful run has exactly its field stream's bits, or its decoded bits, as its result, whatever stood
on the output channel before it, in a loopback too. That a result is read from the run's own words is the model's choice (log
entry 21), and so is, in a loopback, that the words DEC.STREAM presents enter the channel which is `ENC_OUT` too (log
entry 23). -/
def Obligations.ResultIsThereOnlyAfterASuccessfulRun : Prop :=
  (∀ s : State, s.enc.phase ≠ .done → s.encResult = none) ∧
  (∀ s : State, s.dec.phase ≠ .done → s.decResult = none) ∧
  (∀ (s : State) (b : List Bit), s.encIn = [] →
    ∃ t, drive (encStream b) s = .next t ∧ t.runOver .enc = true ∧
      t.encResult = some (serFields s.encCfg (encodeBits s.encCfg b))) ∧
  (∀ (s : State) (f : List Nat), s.decIn = [] → fieldsWf s.decCfg f = true →
    ∃ t, drive (decStream s.decCfg f) s = .next t ∧ t.runOver .dec = true ∧
      t.decResult = some (decodeFields s.decCfg.P0 f))

/-- A unit's result stays until its own next reset (20_memory R69, R52; 42_control R173): no step but the unit's RESET
changes the result of a run that is over, in a loopback no token the other unit takes either. -/
def Obligations.AResultStaysUntilTheUnitsReset : Prop :=
  (∀ (i : Instr) (s t : State) (b : List Bit), exec i s = .next t → s.encResult = some b → i ≠ .encReset →
    t.encResult = some b) ∧
  (∀ (i : Instr) (s t : State) (b : List Bit), exec i s = .next t → s.decResult = some b → i ≠ .decReset →
    t.decResult = some b)

/-- What a host's draining does (70_reset R231): the unit's input channel and its output channel are empty, whole and at
once (the model's choice, log entry 22), and no register, reset input or configuration changes; draining the input alone
leaves the unit's own output channel as it is, and the other unit's input and output channels outside a loopback. In a
loopback `ENC_OUT` is the channel it shares with the decoder, and draining either unit empties that (the model's choice, log
entry 22). -/
def Obligations.DrainingEmptiesAUnitsChannelsOnly : Prop :=
  (∀ s : State, (s.drain .enc).encIn = [] ∧ (s.drain .enc).encOutChannel = [] ∧ (s.drain .enc).decOut = s.decOut ∧
    (s.loopback = false → (s.drain .enc).decIn = s.decIn)) ∧
  (∀ s : State, (s.drain .dec).decIn = [] ∧ (s.drain .dec).decOut = [] ∧ (s.drain .dec).encIn = s.encIn ∧
    (s.loopback = false → (s.drain .dec).encOutChannel = s.encOutChannel)) ∧
  (∀ s : State, (s.drainInput .enc).encIn = [] ∧ (s.drainInput .enc).encOutChannel = s.encOutChannel ∧
    (s.drainInput .enc).decIn = s.decIn ∧ (s.drainInput .enc).decOut = s.decOut ∧
    (s.drainInput .dec).decIn = [] ∧ (s.drainInput .dec).decOut = s.decOut ∧ (s.drainInput .dec).encIn = s.encIn ∧
    (s.loopback = false → (s.drainInput .dec).encOutChannel = s.encOutChannel)) ∧
  (∀ (u : UnitId) (s : State), (s.drain u).enc = s.enc ∧ (s.drain u).dec = s.dec ∧ (s.drain u).encRst = s.encRst ∧
    (s.drain u).decRst = s.decRst ∧ (s.drain u).encCfg = s.encCfg ∧ (s.drain u).decCfg = s.decCfg ∧
    (s.drain u).loopback = s.loopback)

/-! ## The round trip -/

/-- The functional core of the round trip (41_decoder R149): decoding an encoding with the same parameters gives the bits
back, for every `W >= 1` and either `P0`. -/
def Obligations.DecodingAnEncodingGivesTheBitsBack : Prop :=
  ∀ (c : Config) (b : List Bit), decodeFields c.P0 (encodeBits c b) = b

/-- Round trip with the host carrying the encoder's output to the decoder (41_decoder R149): the encoder, reset and fed
`b` and `END`, then the decoder, reset and fed what stands on `ENC_OUT`, ends in DONE without error, with exactly `b` on
`DEC_OUT` before its `CLOSE` and as its result. -/
def Obligations.RoundTripThroughBothUnits : Prop :=
  ∀ (s : State) (b : List Bit), s.loopback = false → s.encCfg = s.decCfg →
    s.encIn = [] → s.encOut = [] → s.decIn = [] → s.decOut = [] →
      ∃ t u, drive (encStream b) s = .next t ∧ drive (.decReset :: decOpsOf t.encOut) t = .next u ∧
        u.dec.phase = .done ∧ u.dec.err = .noError ∧ resultOf u.decOut = some b ∧ u.decResult = some b

/-- Round trip over a loopback, step by step and for every order in which the units move (41_decoder R149, 20_memory
R68; program P3): from both reset inputs raised in any register state, with the bits and `END` on `ENC_IN`, the machine
itself reaches a state with both units in DONE, exactly `b` on `DEC_OUT` before its `CLOSE` and as the decoder's result,
the encoder's field stream still its own result, and no operation enabled.
That no operation enabled is the refusal `idle` (log entry 4), that a RESET takes its pulse (log entry 5), how the order
of the units is drawn (log entry 6), that `ENC_OUT` and `DEC_IN` are one list (log entry 8) and that a result outlives the
taking of its tokens (log entry 21) are the model's choices. -/
def Obligations.RoundTripOverALoopback : Prop :=
  ∀ (s : State) (b : List Bit), s.loopback = true → s.encCfg = s.decCfg → s.encRst = true → s.decRst = true →
    s.encIn = runWords b → s.decIn = [] → s.decOut = [] →
      ∃ k t, Host.Core.run Sys2Proof.core k s = .next t ∧ t.enc.phase = .done ∧ t.dec.phase = .done ∧
        t.dec.err = .noError ∧ resultOf t.decOut = some b ∧ t.decResult = some b ∧
        t.encResult = some (serFields s.encCfg (encodeBits s.encCfg b)) ∧ step t = .refused .idle
end

