-- ==== Sys2Proof/Laws/Operands.lean ====
section
/-! SUPPORT. The small lemmas of the operand forms and pure functions (00_scope R8, R13). -/

namespace Sys2Proof.Machine

/-- `MAX >= 1` for every admitted `W` (00_scope R8). -/
theorem one_le_max (c : Config) : 1 ≤ c.max := by
  have h : 2 ^ 1 ≤ 2 ^ c.W := Nat.pow_le_pow_right (by decide) c.W_pos
  unfold Config.max
  omega

theorem max_add_one (c : Config) : c.max + 1 = 2 ^ c.W := by
  have h : 1 ≤ 2 ^ c.W := Nat.one_le_two_pow
  unfold Config.max
  omega

theorem le_max_iff (c : Config) (v : Nat) : v ≤ c.max ↔ v < 2 ^ c.W := by
  have := max_add_one c
  omega

@[simp] theorem ser_length (w v : Nat) : (ser w v).length = w := by
  induction w with
  | zero => rfl
  | succ n ih => simp [ser, ih]

@[simp] theorem shiftIn_false (sh : Nat) : shiftIn sh false = 2 * sh := by simp [shiftIn]

@[simp] theorem shiftIn_true (sh : Nat) : shiftIn sh true = 2 * sh + 1 := by simp [shiftIn]

/-- A number below `2^k` with one more bit is below `2^(k+1)`: no bit is shifted out (41_decoder R140). -/
theorem shiftIn_lt {sh k : Nat} (d : Bit) (h : sh < 2 ^ k) : shiftIn sh d < 2 ^ (k + 1) := by
  have e : 2 ^ (k + 1) = 2 * 2 ^ k := by ring
  cases d <;> simp <;> omega

theorem splitFuel_of_le {m n : Nat} (h : n ≤ m) (fuel : Nat) : splitFuel m fuel n = [n] := by
  cases fuel <;> simp [splitFuel, h]

/-- More fuel than the number changes nothing, since every round takes at least one off. -/
theorem splitFuel_eq {m : Nat} (hm : 1 ≤ m) : ∀ (n f g : Nat), n ≤ f → n ≤ g → splitFuel m f n = splitFuel m g n := by
  intro n
  induction n using Nat.strong_induction_on with
  | _ n ih =>
    intro f g hf hg
    by_cases h : n ≤ m
    · rw [splitFuel_of_le h, splitFuel_of_le h]
    · obtain ⟨f, rfl⟩ : ∃ k, f = k + 1 := ⟨f - 1, by omega⟩
      obtain ⟨g, rfl⟩ : ∃ k, g = k + 1 := ⟨g - 1, by omega⟩
      simp only [splitFuel, h, if_false]
      rw [ih (n - m) (by omega) f g (by omega) (by omega)]

/-- The defining equation of `split_W` (00_scope R13). -/
theorem split_eq (c : Config) (n : Nat) :
    split c n = if n ≤ c.max then [n] else c.max :: 0 :: split c (n - c.max) := by
  unfold split
  by_cases h : n ≤ c.max
  · simp [h, splitFuel_of_le h]
  · have hm := one_le_max c
    obtain ⟨k, rfl⟩ : ∃ k, n = k + 1 := ⟨n - 1, by omega⟩
    simp only [splitFuel, h, if_false]
    rw [splitFuel_eq hm (k + 1 - c.max) k (k + 1 - c.max) (by omega) le_rfl]

end Sys2Proof.Machine
end

