-- ==== Sys2Proof/Laws/Coding.lean ====
section
/-! SUPPORT. The small lemmas of the token and word coding: what a word written for a token reads as (30_encoding R81, R84, R86). -/

namespace Sys2Proof

@[simp] theorem tokenOf_wordOf (t : Token) : tokenOf (wordOf t) = t := by
  rcases t with _ | _
  · rename_i b; cases b <;> decide
  · decide

@[simp] theorem tokenOf_wordOfOut_bit (b : Bit) : tokenOf (wordOfOut (.bit b)) = .bit b := by
  cases b <;> decide

/-- `CLOSE` read on an input port is `END`, so a loopback is a wire (30_encoding R84). -/
@[simp] theorem tokenOf_wordOfOut_close : tokenOf (wordOfOut .close) = .last := by decide

theorem wordOfOut_bit (b : Bit) : wordOfOut (.bit b) = wordOf (.bit b) := by cases b <;> rfl

theorem decodeToken_toNat (u : UnitId) (w : Word) : decodeToken u w.toNat = .ok (tokenInstr u (tokenOf w)) := by
  have h : w.toNat < 4 := w.isLt
  simp [decodeToken, h]

@[simp] theorem decode_encIn (w : Word) : decode .encIn w.toNat = .ok (tokenInstr .enc (tokenOf w)) :=
  decodeToken_toNat .enc w

@[simp] theorem decode_decIn (w : Word) : decode .decIn w.toNat = .ok (tokenInstr .dec (tokenOf w)) :=
  decodeToken_toNat .dec w

@[simp] theorem decode_encRst_zero : decode .encRst 0 = .error .noOperation := rfl

@[simp] theorem decode_encRst_one : decode .encRst 1 = .ok .encReset := rfl

@[simp] theorem decode_decRst_zero : decode .decRst 0 = .error .noOperation := rfl

@[simp] theorem decode_decRst_one : decode .decRst 1 = .ok .decReset := rfl

end Sys2Proof
end

