-- ==== Sys2Proof/Laws/State.lean ====
section
/-! SUPPORT. One lemma per field per named update of State, each true by unfolding the update once, so that no later proof unfolds a record update. -/

namespace Sys2Proof.Machine


@[simp] theorem appendEncOut_dec (ts : List OutToken) (s : State) : (appendEncOut ts s).dec = s.dec := rfl
@[simp] theorem appendEncOut_encIn (ts : List OutToken) (s : State) : (appendEncOut ts s).encIn = s.encIn := rfl
@[simp] theorem appendEncOut_encOut (ts : List OutToken) (s : State) : (appendEncOut ts s).encOut = if s.loopback then s.encOut else s.encOut ++ ts.map wordOfOut := rfl
@[simp] theorem appendEncOut_decIn (ts : List OutToken) (s : State) : (appendEncOut ts s).decIn = if s.loopback then s.decIn ++ ts.map wordOfOut else s.decIn := rfl
@[simp] theorem appendEncOut_decOut (ts : List OutToken) (s : State) : (appendEncOut ts s).decOut = s.decOut := rfl
@[simp] theorem appendEncOut_encRst (ts : List OutToken) (s : State) : (appendEncOut ts s).encRst = s.encRst := rfl
@[simp] theorem appendEncOut_decRst (ts : List OutToken) (s : State) : (appendEncOut ts s).decRst = s.decRst := rfl
@[simp] theorem appendEncOut_encCfg (ts : List OutToken) (s : State) : (appendEncOut ts s).encCfg = s.encCfg := rfl
@[simp] theorem appendEncOut_decCfg (ts : List OutToken) (s : State) : (appendEncOut ts s).decCfg = s.decCfg := rfl
@[simp] theorem appendEncOut_loopback (ts : List OutToken) (s : State) : (appendEncOut ts s).loopback = s.loopback := rfl
@[simp] theorem appendEncOut_turn (ts : List OutToken) (s : State) : (appendEncOut ts s).turn = s.turn := rfl
@[simp] theorem appendEncOut_tick (ts : List OutToken) (s : State) : (appendEncOut ts s).tick = s.tick := rfl
@[simp] theorem appendEncOut_enc_live (ts : List OutToken) (s : State) : (appendEncOut ts s).enc.live = s.enc.live := rfl
@[simp] theorem appendEncOut_enc_cnt (ts : List OutToken) (s : State) : (appendEncOut ts s).enc.cnt = s.enc.cnt := rfl
@[simp] theorem appendEncOut_enc_pol (ts : List OutToken) (s : State) : (appendEncOut ts s).enc.pol = s.enc.pol := rfl
@[simp] theorem appendEncOut_enc_phase (ts : List OutToken) (s : State) : (appendEncOut ts s).enc.phase = s.enc.phase := rfl
@[simp] theorem appendEncOut_enc_err (ts : List OutToken) (s : State) : (appendEncOut ts s).enc.err = s.enc.err := rfl
@[simp] theorem appendEncOut_enc_fields (ts : List OutToken) (s : State) : (appendEncOut ts s).enc.fields = s.enc.fields := rfl
@[simp] theorem appendEncOut_enc_out (ts : List OutToken) (s : State) : (appendEncOut ts s).enc.out = s.enc.out ++ ts.map wordOfOut := rfl

@[simp] theorem appendDecOut_enc (ts : List OutToken) (s : State) : (appendDecOut ts s).enc = s.enc := rfl
@[simp] theorem appendDecOut_encIn (ts : List OutToken) (s : State) : (appendDecOut ts s).encIn = s.encIn := rfl
@[simp] theorem appendDecOut_encOut (ts : List OutToken) (s : State) : (appendDecOut ts s).encOut = s.encOut := rfl
@[simp] theorem appendDecOut_decIn (ts : List OutToken) (s : State) : (appendDecOut ts s).decIn = s.decIn := rfl
@[simp] theorem appendDecOut_decOut (ts : List OutToken) (s : State) : (appendDecOut ts s).decOut = s.decOut ++ ts.map wordOfOut := rfl
@[simp] theorem appendDecOut_encRst (ts : List OutToken) (s : State) : (appendDecOut ts s).encRst = s.encRst := rfl
@[simp] theorem appendDecOut_decRst (ts : List OutToken) (s : State) : (appendDecOut ts s).decRst = s.decRst := rfl
@[simp] theorem appendDecOut_encCfg (ts : List OutToken) (s : State) : (appendDecOut ts s).encCfg = s.encCfg := rfl
@[simp] theorem appendDecOut_decCfg (ts : List OutToken) (s : State) : (appendDecOut ts s).decCfg = s.decCfg := rfl
@[simp] theorem appendDecOut_loopback (ts : List OutToken) (s : State) : (appendDecOut ts s).loopback = s.loopback := rfl
@[simp] theorem appendDecOut_turn (ts : List OutToken) (s : State) : (appendDecOut ts s).turn = s.turn := rfl
@[simp] theorem appendDecOut_tick (ts : List OutToken) (s : State) : (appendDecOut ts s).tick = s.tick := rfl
@[simp] theorem appendDecOut_dec_live (ts : List OutToken) (s : State) : (appendDecOut ts s).dec.live = s.dec.live := rfl
@[simp] theorem appendDecOut_dec_pol (ts : List OutToken) (s : State) : (appendDecOut ts s).dec.pol = s.dec.pol := rfl
@[simp] theorem appendDecOut_dec_sh (ts : List OutToken) (s : State) : (appendDecOut ts s).dec.sh = s.dec.sh := rfl
@[simp] theorem appendDecOut_dec_nb (ts : List OutToken) (s : State) : (appendDecOut ts s).dec.nb = s.dec.nb := rfl
@[simp] theorem appendDecOut_dec_phase (ts : List OutToken) (s : State) : (appendDecOut ts s).dec.phase = s.dec.phase := rfl
@[simp] theorem appendDecOut_dec_err (ts : List OutToken) (s : State) : (appendDecOut ts s).dec.err = s.dec.err := rfl
@[simp] theorem appendDecOut_dec_out (ts : List OutToken) (s : State) : (appendDecOut ts s).dec.out = s.dec.out ++ ts.map wordOfOut := rfl

@[simp] theorem raise_enc_dec (e : Err) (s : State) : (raise .enc e s).dec = s.dec := rfl
@[simp] theorem raise_enc_encIn (e : Err) (s : State) : (raise .enc e s).encIn = s.encIn := rfl
@[simp] theorem raise_enc_encOut (e : Err) (s : State) : (raise .enc e s).encOut = s.encOut := rfl
@[simp] theorem raise_enc_decIn (e : Err) (s : State) : (raise .enc e s).decIn = s.decIn := rfl
@[simp] theorem raise_enc_decOut (e : Err) (s : State) : (raise .enc e s).decOut = s.decOut := rfl
@[simp] theorem raise_enc_encRst (e : Err) (s : State) : (raise .enc e s).encRst = s.encRst := rfl
@[simp] theorem raise_enc_decRst (e : Err) (s : State) : (raise .enc e s).decRst = s.decRst := rfl
@[simp] theorem raise_enc_encCfg (e : Err) (s : State) : (raise .enc e s).encCfg = s.encCfg := rfl
@[simp] theorem raise_enc_decCfg (e : Err) (s : State) : (raise .enc e s).decCfg = s.decCfg := rfl
@[simp] theorem raise_enc_loopback (e : Err) (s : State) : (raise .enc e s).loopback = s.loopback := rfl
@[simp] theorem raise_enc_turn (e : Err) (s : State) : (raise .enc e s).turn = s.turn := rfl
@[simp] theorem raise_enc_tick (e : Err) (s : State) : (raise .enc e s).tick = s.tick := rfl
@[simp] theorem raise_enc_enc_live (e : Err) (s : State) : (raise .enc e s).enc.live = s.enc.live := rfl
@[simp] theorem raise_enc_enc_cnt (e : Err) (s : State) : (raise .enc e s).enc.cnt = s.enc.cnt := rfl
@[simp] theorem raise_enc_enc_pol (e : Err) (s : State) : (raise .enc e s).enc.pol = s.enc.pol := rfl
@[simp] theorem raise_enc_enc_phase (e : Err) (s : State) : (raise .enc e s).enc.phase = .fault := rfl
@[simp] theorem raise_enc_enc_err (e : Err) (s : State) : (raise .enc e s).enc.err = e := rfl
@[simp] theorem raise_enc_enc_fields (e : Err) (s : State) : (raise .enc e s).enc.fields = s.enc.fields := rfl
@[simp] theorem raise_enc_enc_out (e : Err) (s : State) : (raise .enc e s).enc.out = s.enc.out := rfl

@[simp] theorem raise_dec_enc (e : Err) (s : State) : (raise .dec e s).enc = s.enc := rfl
@[simp] theorem raise_dec_encIn (e : Err) (s : State) : (raise .dec e s).encIn = s.encIn := rfl
@[simp] theorem raise_dec_encOut (e : Err) (s : State) : (raise .dec e s).encOut = s.encOut := rfl
@[simp] theorem raise_dec_decIn (e : Err) (s : State) : (raise .dec e s).decIn = s.decIn := rfl
@[simp] theorem raise_dec_decOut (e : Err) (s : State) : (raise .dec e s).decOut = s.decOut := rfl
@[simp] theorem raise_dec_encRst (e : Err) (s : State) : (raise .dec e s).encRst = s.encRst := rfl
@[simp] theorem raise_dec_decRst (e : Err) (s : State) : (raise .dec e s).decRst = s.decRst := rfl
@[simp] theorem raise_dec_encCfg (e : Err) (s : State) : (raise .dec e s).encCfg = s.encCfg := rfl
@[simp] theorem raise_dec_decCfg (e : Err) (s : State) : (raise .dec e s).decCfg = s.decCfg := rfl
@[simp] theorem raise_dec_loopback (e : Err) (s : State) : (raise .dec e s).loopback = s.loopback := rfl
@[simp] theorem raise_dec_turn (e : Err) (s : State) : (raise .dec e s).turn = s.turn := rfl
@[simp] theorem raise_dec_tick (e : Err) (s : State) : (raise .dec e s).tick = s.tick := rfl
@[simp] theorem raise_dec_dec_live (e : Err) (s : State) : (raise .dec e s).dec.live = s.dec.live := rfl
@[simp] theorem raise_dec_dec_pol (e : Err) (s : State) : (raise .dec e s).dec.pol = s.dec.pol := rfl
@[simp] theorem raise_dec_dec_sh (e : Err) (s : State) : (raise .dec e s).dec.sh = s.dec.sh := rfl
@[simp] theorem raise_dec_dec_nb (e : Err) (s : State) : (raise .dec e s).dec.nb = s.dec.nb := rfl
@[simp] theorem raise_dec_dec_phase (e : Err) (s : State) : (raise .dec e s).dec.phase = .fault := rfl
@[simp] theorem raise_dec_dec_err (e : Err) (s : State) : (raise .dec e s).dec.err = e := rfl
@[simp] theorem raise_dec_dec_out (e : Err) (s : State) : (raise .dec e s).dec.out = s.dec.out := rfl

@[simp] theorem pushField_dec (v : Nat) (s : State) : (pushField v s).dec = s.dec := rfl
@[simp] theorem pushField_encIn (v : Nat) (s : State) : (pushField v s).encIn = s.encIn := rfl
@[simp] theorem pushField_encOut (v : Nat) (s : State) : (pushField v s).encOut = if s.loopback then s.encOut else s.encOut ++ ((ser s.encCfg.W v).map .bit).map wordOfOut := rfl
@[simp] theorem pushField_decIn (v : Nat) (s : State) : (pushField v s).decIn = if s.loopback then s.decIn ++ ((ser s.encCfg.W v).map .bit).map wordOfOut else s.decIn := rfl
@[simp] theorem pushField_decOut (v : Nat) (s : State) : (pushField v s).decOut = s.decOut := rfl
@[simp] theorem pushField_encRst (v : Nat) (s : State) : (pushField v s).encRst = s.encRst := rfl
@[simp] theorem pushField_decRst (v : Nat) (s : State) : (pushField v s).decRst = s.decRst := rfl
@[simp] theorem pushField_encCfg (v : Nat) (s : State) : (pushField v s).encCfg = s.encCfg := rfl
@[simp] theorem pushField_decCfg (v : Nat) (s : State) : (pushField v s).decCfg = s.decCfg := rfl
@[simp] theorem pushField_loopback (v : Nat) (s : State) : (pushField v s).loopback = s.loopback := rfl
@[simp] theorem pushField_turn (v : Nat) (s : State) : (pushField v s).turn = s.turn := rfl
@[simp] theorem pushField_tick (v : Nat) (s : State) : (pushField v s).tick = s.tick := rfl
@[simp] theorem pushField_enc_live (v : Nat) (s : State) : (pushField v s).enc.live = s.enc.live := rfl
@[simp] theorem pushField_enc_cnt (v : Nat) (s : State) : (pushField v s).enc.cnt = s.enc.cnt := rfl
@[simp] theorem pushField_enc_pol (v : Nat) (s : State) : (pushField v s).enc.pol = s.enc.pol := rfl
@[simp] theorem pushField_enc_phase (v : Nat) (s : State) : (pushField v s).enc.phase = s.enc.phase := rfl
@[simp] theorem pushField_enc_err (v : Nat) (s : State) : (pushField v s).enc.err = s.enc.err := rfl
@[simp] theorem pushField_enc_fields (v : Nat) (s : State) : (pushField v s).enc.fields = s.enc.fields ++ [v] := rfl
@[simp] theorem pushField_enc_out (v : Nat) (s : State) : (pushField v s).enc.out = s.enc.out ++ ((ser s.encCfg.W v).map .bit).map wordOfOut := rfl

@[simp] theorem resetEnc_enc (s : State) : (resetEnc s).enc = Enc.init s.encCfg := rfl
@[simp] theorem resetEnc_dec (s : State) : (resetEnc s).dec = s.dec := rfl
@[simp] theorem resetEnc_encIn (s : State) : (resetEnc s).encIn = s.encIn := rfl
@[simp] theorem resetEnc_encOut (s : State) : (resetEnc s).encOut = s.encOut := rfl
@[simp] theorem resetEnc_decIn (s : State) : (resetEnc s).decIn = s.decIn := rfl
@[simp] theorem resetEnc_decOut (s : State) : (resetEnc s).decOut = s.decOut := rfl
@[simp] theorem resetEnc_encRst (s : State) : (resetEnc s).encRst = s.encRst := rfl
@[simp] theorem resetEnc_decRst (s : State) : (resetEnc s).decRst = s.decRst := rfl
@[simp] theorem resetEnc_encCfg (s : State) : (resetEnc s).encCfg = s.encCfg := rfl
@[simp] theorem resetEnc_decCfg (s : State) : (resetEnc s).decCfg = s.decCfg := rfl
@[simp] theorem resetEnc_loopback (s : State) : (resetEnc s).loopback = s.loopback := rfl
@[simp] theorem resetEnc_turn (s : State) : (resetEnc s).turn = s.turn := rfl
@[simp] theorem resetEnc_tick (s : State) : (resetEnc s).tick = s.tick := rfl

@[simp] theorem resetDec_enc (s : State) : (resetDec s).enc = s.enc := rfl
@[simp] theorem resetDec_dec (s : State) : (resetDec s).dec = Dec.init s.decCfg := rfl
@[simp] theorem resetDec_encIn (s : State) : (resetDec s).encIn = s.encIn := rfl
@[simp] theorem resetDec_encOut (s : State) : (resetDec s).encOut = s.encOut := rfl
@[simp] theorem resetDec_decIn (s : State) : (resetDec s).decIn = s.decIn := rfl
@[simp] theorem resetDec_decOut (s : State) : (resetDec s).decOut = s.decOut := rfl
@[simp] theorem resetDec_encRst (s : State) : (resetDec s).encRst = s.encRst := rfl
@[simp] theorem resetDec_decRst (s : State) : (resetDec s).decRst = s.decRst := rfl
@[simp] theorem resetDec_encCfg (s : State) : (resetDec s).encCfg = s.encCfg := rfl
@[simp] theorem resetDec_decCfg (s : State) : (resetDec s).decCfg = s.decCfg := rfl
@[simp] theorem resetDec_loopback (s : State) : (resetDec s).loopback = s.loopback := rfl
@[simp] theorem resetDec_turn (s : State) : (resetDec s).turn = s.turn := rfl
@[simp] theorem resetDec_tick (s : State) : (resetDec s).tick = s.tick := rfl

@[simp] theorem drawTurn_enc (s : State) : (drawTurn s).enc = s.enc := rfl
@[simp] theorem drawTurn_dec (s : State) : (drawTurn s).dec = s.dec := rfl
@[simp] theorem drawTurn_encIn (s : State) : (drawTurn s).encIn = s.encIn := rfl
@[simp] theorem drawTurn_encOut (s : State) : (drawTurn s).encOut = s.encOut := rfl
@[simp] theorem drawTurn_decIn (s : State) : (drawTurn s).decIn = s.decIn := rfl
@[simp] theorem drawTurn_decOut (s : State) : (drawTurn s).decOut = s.decOut := rfl
@[simp] theorem drawTurn_encRst (s : State) : (drawTurn s).encRst = s.encRst := rfl
@[simp] theorem drawTurn_decRst (s : State) : (drawTurn s).decRst = s.decRst := rfl
@[simp] theorem drawTurn_encCfg (s : State) : (drawTurn s).encCfg = s.encCfg := rfl
@[simp] theorem drawTurn_decCfg (s : State) : (drawTurn s).decCfg = s.decCfg := rfl
@[simp] theorem drawTurn_loopback (s : State) : (drawTurn s).loopback = s.loopback := rfl
@[simp] theorem drawTurn_turn (s : State) : (drawTurn s).turn = Config.freeTurn s.tick := rfl
@[simp] theorem drawTurn_tick (s : State) : (drawTurn s).tick = s.tick + 1 := rfl

@[simp] theorem consumePulse_encReset_enc (s : State) : (consumePulse .encReset s).enc = s.enc := rfl
@[simp] theorem consumePulse_encReset_dec (s : State) : (consumePulse .encReset s).dec = s.dec := rfl
@[simp] theorem consumePulse_encReset_encIn (s : State) : (consumePulse .encReset s).encIn = s.encIn := rfl
@[simp] theorem consumePulse_encReset_encOut (s : State) : (consumePulse .encReset s).encOut = s.encOut := rfl
@[simp] theorem consumePulse_encReset_decIn (s : State) : (consumePulse .encReset s).decIn = s.decIn := rfl
@[simp] theorem consumePulse_encReset_decOut (s : State) : (consumePulse .encReset s).decOut = s.decOut := rfl
@[simp] theorem consumePulse_encReset_encRst (s : State) : (consumePulse .encReset s).encRst = false := rfl
@[simp] theorem consumePulse_encReset_decRst (s : State) : (consumePulse .encReset s).decRst = s.decRst := rfl
@[simp] theorem consumePulse_encReset_encCfg (s : State) : (consumePulse .encReset s).encCfg = s.encCfg := rfl
@[simp] theorem consumePulse_encReset_decCfg (s : State) : (consumePulse .encReset s).decCfg = s.decCfg := rfl
@[simp] theorem consumePulse_encReset_loopback (s : State) : (consumePulse .encReset s).loopback = s.loopback := rfl
@[simp] theorem consumePulse_encReset_turn (s : State) : (consumePulse .encReset s).turn = s.turn := rfl
@[simp] theorem consumePulse_encReset_tick (s : State) : (consumePulse .encReset s).tick = s.tick := rfl

@[simp] theorem consumePulse_decReset_enc (s : State) : (consumePulse .decReset s).enc = s.enc := rfl
@[simp] theorem consumePulse_decReset_dec (s : State) : (consumePulse .decReset s).dec = s.dec := rfl
@[simp] theorem consumePulse_decReset_encIn (s : State) : (consumePulse .decReset s).encIn = s.encIn := rfl
@[simp] theorem consumePulse_decReset_encOut (s : State) : (consumePulse .decReset s).encOut = s.encOut := rfl
@[simp] theorem consumePulse_decReset_decIn (s : State) : (consumePulse .decReset s).decIn = s.decIn := rfl
@[simp] theorem consumePulse_decReset_decOut (s : State) : (consumePulse .decReset s).decOut = s.decOut := rfl
@[simp] theorem consumePulse_decReset_encRst (s : State) : (consumePulse .decReset s).encRst = s.encRst := rfl
@[simp] theorem consumePulse_decReset_decRst (s : State) : (consumePulse .decReset s).decRst = false := rfl
@[simp] theorem consumePulse_decReset_encCfg (s : State) : (consumePulse .decReset s).encCfg = s.encCfg := rfl
@[simp] theorem consumePulse_decReset_decCfg (s : State) : (consumePulse .decReset s).decCfg = s.decCfg := rfl
@[simp] theorem consumePulse_decReset_loopback (s : State) : (consumePulse .decReset s).loopback = s.loopback := rfl
@[simp] theorem consumePulse_decReset_turn (s : State) : (consumePulse .decReset s).turn = s.turn := rfl
@[simp] theorem consumePulse_decReset_tick (s : State) : (consumePulse .decReset s).tick = s.tick := rfl

@[simp] theorem drainInput_enc (u : UnitId) (s : State) : (s.drainInput u).enc = s.enc := by cases u <;> rfl
@[simp] theorem drainInput_dec (u : UnitId) (s : State) : (s.drainInput u).dec = s.dec := by cases u <;> rfl
@[simp] theorem drainInput_encRst (u : UnitId) (s : State) : (s.drainInput u).encRst = s.encRst := by cases u <;> rfl
@[simp] theorem drainInput_decRst (u : UnitId) (s : State) : (s.drainInput u).decRst = s.decRst := by cases u <;> rfl
@[simp] theorem drainInput_encCfg (u : UnitId) (s : State) : (s.drainInput u).encCfg = s.encCfg := by cases u <;> rfl
@[simp] theorem drainInput_decCfg (u : UnitId) (s : State) : (s.drainInput u).decCfg = s.decCfg := by cases u <;> rfl
@[simp] theorem drainInput_loopback (u : UnitId) (s : State) : (s.drainInput u).loopback = s.loopback := by cases u <;> rfl
@[simp] theorem drainInput_turn (u : UnitId) (s : State) : (s.drainInput u).turn = s.turn := by cases u <;> rfl
@[simp] theorem drainInput_tick (u : UnitId) (s : State) : (s.drainInput u).tick = s.tick := by cases u <;> rfl
@[simp] theorem drainInput_enc_encIn (s : State) : (s.drainInput .enc).encIn = [] := rfl
@[simp] theorem drainInput_enc_encOut (s : State) : (s.drainInput .enc).encOut = s.encOut := rfl
@[simp] theorem drainInput_enc_decIn (s : State) : (s.drainInput .enc).decIn = s.decIn := rfl
@[simp] theorem drainInput_enc_decOut (s : State) : (s.drainInput .enc).decOut = s.decOut := rfl
@[simp] theorem drainInput_dec_encIn (s : State) : (s.drainInput .dec).encIn = s.encIn := rfl
@[simp] theorem drainInput_dec_encOut (s : State) : (s.drainInput .dec).encOut = s.encOut := rfl
@[simp] theorem drainInput_dec_decIn (s : State) : (s.drainInput .dec).decIn = [] := rfl
@[simp] theorem drainInput_dec_decOut (s : State) : (s.drainInput .dec).decOut = s.decOut := rfl

@[simp] theorem discardOutput_enc (u : UnitId) (s : State) : (s.discardOutput u).enc = s.enc := by cases u <;> rfl
@[simp] theorem discardOutput_dec (u : UnitId) (s : State) : (s.discardOutput u).dec = s.dec := by cases u <;> rfl
@[simp] theorem discardOutput_encRst (u : UnitId) (s : State) : (s.discardOutput u).encRst = s.encRst := by cases u <;> rfl
@[simp] theorem discardOutput_decRst (u : UnitId) (s : State) : (s.discardOutput u).decRst = s.decRst := by cases u <;> rfl
@[simp] theorem discardOutput_encCfg (u : UnitId) (s : State) : (s.discardOutput u).encCfg = s.encCfg := by cases u <;> rfl
@[simp] theorem discardOutput_decCfg (u : UnitId) (s : State) : (s.discardOutput u).decCfg = s.decCfg := by cases u <;> rfl
@[simp] theorem discardOutput_loopback (u : UnitId) (s : State) : (s.discardOutput u).loopback = s.loopback := by cases u <;> rfl
@[simp] theorem discardOutput_turn (u : UnitId) (s : State) : (s.discardOutput u).turn = s.turn := by cases u <;> rfl
@[simp] theorem discardOutput_tick (u : UnitId) (s : State) : (s.discardOutput u).tick = s.tick := by cases u <;> rfl
@[simp] theorem discardOutput_enc_encIn (s : State) : (s.discardOutput .enc).encIn = s.encIn := rfl
@[simp] theorem discardOutput_enc_encOut (s : State) : (s.discardOutput .enc).encOut = [] := rfl
@[simp] theorem discardOutput_enc_decIn (s : State) : (s.discardOutput .enc).decIn = if s.loopback then [] else s.decIn := rfl
@[simp] theorem discardOutput_enc_decOut (s : State) : (s.discardOutput .enc).decOut = s.decOut := rfl
@[simp] theorem discardOutput_dec_encIn (s : State) : (s.discardOutput .dec).encIn = s.encIn := rfl
@[simp] theorem discardOutput_dec_encOut (s : State) : (s.discardOutput .dec).encOut = s.encOut := rfl
@[simp] theorem discardOutput_dec_decIn (s : State) : (s.discardOutput .dec).decIn = s.decIn := rfl
@[simp] theorem discardOutput_dec_decOut (s : State) : (s.discardOutput .dec).decOut = [] := rfl

@[simp] theorem drain_enc_enc (s : State) : (s.drain .enc).enc = s.enc := rfl
@[simp] theorem drain_enc_dec (s : State) : (s.drain .enc).dec = s.dec := rfl
@[simp] theorem drain_enc_encIn (s : State) : (s.drain .enc).encIn = [] := rfl
@[simp] theorem drain_enc_encOut (s : State) : (s.drain .enc).encOut = [] := rfl
@[simp] theorem drain_enc_decIn (s : State) : (s.drain .enc).decIn = if s.loopback then [] else s.decIn := rfl
@[simp] theorem drain_enc_decOut (s : State) : (s.drain .enc).decOut = s.decOut := rfl
@[simp] theorem drain_enc_encRst (s : State) : (s.drain .enc).encRst = s.encRst := rfl
@[simp] theorem drain_enc_decRst (s : State) : (s.drain .enc).decRst = s.decRst := rfl
@[simp] theorem drain_enc_encCfg (s : State) : (s.drain .enc).encCfg = s.encCfg := rfl
@[simp] theorem drain_enc_decCfg (s : State) : (s.drain .enc).decCfg = s.decCfg := rfl
@[simp] theorem drain_enc_loopback (s : State) : (s.drain .enc).loopback = s.loopback := rfl
@[simp] theorem drain_enc_turn (s : State) : (s.drain .enc).turn = s.turn := rfl
@[simp] theorem drain_enc_tick (s : State) : (s.drain .enc).tick = s.tick := rfl

@[simp] theorem drain_dec_enc (s : State) : (s.drain .dec).enc = s.enc := rfl
@[simp] theorem drain_dec_dec (s : State) : (s.drain .dec).dec = s.dec := rfl
@[simp] theorem drain_dec_encIn (s : State) : (s.drain .dec).encIn = s.encIn := rfl
@[simp] theorem drain_dec_encOut (s : State) : (s.drain .dec).encOut = s.encOut := rfl
@[simp] theorem drain_dec_decIn (s : State) : (s.drain .dec).decIn = [] := rfl
@[simp] theorem drain_dec_decOut (s : State) : (s.drain .dec).decOut = [] := rfl
@[simp] theorem drain_dec_encRst (s : State) : (s.drain .dec).encRst = s.encRst := rfl
@[simp] theorem drain_dec_decRst (s : State) : (s.drain .dec).decRst = s.decRst := rfl
@[simp] theorem drain_dec_encCfg (s : State) : (s.drain .dec).encCfg = s.encCfg := rfl
@[simp] theorem drain_dec_decCfg (s : State) : (s.drain .dec).decCfg = s.decCfg := rfl
@[simp] theorem drain_dec_loopback (s : State) : (s.drain .dec).loopback = s.loopback := rfl
@[simp] theorem drain_dec_turn (s : State) : (s.drain .dec).turn = s.turn := rfl
@[simp] theorem drain_dec_tick (s : State) : (s.drain .dec).tick = s.tick := rfl

@[simp] theorem consumePulse_encBit (d : Bit) (s : State) : consumePulse (.encBit d) s = s := rfl
@[simp] theorem consumePulse_encEnd (s : State) : consumePulse .encEnd s = s := rfl
@[simp] theorem consumePulse_decFbit (d : Bit) (s : State) : consumePulse (.decFbit d) s = s := rfl
@[simp] theorem consumePulse_decEnd (s : State) : consumePulse .decEnd s = s := rfl

@[simp] theorem present_encBit_enc (d : Bit) (s : State) : (s.present (.encBit d)).enc = s.enc := rfl
@[simp] theorem present_encBit_dec (d : Bit) (s : State) : (s.present (.encBit d)).dec = s.dec := rfl
@[simp] theorem present_encBit_encIn (d : Bit) (s : State) : (s.present (.encBit d)).encIn = s.encIn ++ [wordOf (.bit d)] := rfl
@[simp] theorem present_encBit_encOut (d : Bit) (s : State) : (s.present (.encBit d)).encOut = s.encOut := rfl
@[simp] theorem present_encBit_decIn (d : Bit) (s : State) : (s.present (.encBit d)).decIn = s.decIn := rfl
@[simp] theorem present_encBit_decOut (d : Bit) (s : State) : (s.present (.encBit d)).decOut = s.decOut := rfl
@[simp] theorem present_encBit_encRst (d : Bit) (s : State) : (s.present (.encBit d)).encRst = s.encRst := rfl
@[simp] theorem present_encBit_decRst (d : Bit) (s : State) : (s.present (.encBit d)).decRst = s.decRst := rfl
@[simp] theorem present_encBit_encCfg (d : Bit) (s : State) : (s.present (.encBit d)).encCfg = s.encCfg := rfl
@[simp] theorem present_encBit_decCfg (d : Bit) (s : State) : (s.present (.encBit d)).decCfg = s.decCfg := rfl
@[simp] theorem present_encBit_loopback (d : Bit) (s : State) : (s.present (.encBit d)).loopback = s.loopback := rfl
@[simp] theorem present_encBit_turn (d : Bit) (s : State) : (s.present (.encBit d)).turn = s.turn := rfl
@[simp] theorem present_encBit_tick (d : Bit) (s : State) : (s.present (.encBit d)).tick = s.tick := rfl

@[simp] theorem present_encEnd_enc (s : State) : (s.present .encEnd).enc = s.enc := rfl
@[simp] theorem present_encEnd_dec (s : State) : (s.present .encEnd).dec = s.dec := rfl
@[simp] theorem present_encEnd_encIn (s : State) : (s.present .encEnd).encIn = s.encIn ++ [wordOf .last] := rfl
@[simp] theorem present_encEnd_encOut (s : State) : (s.present .encEnd).encOut = s.encOut := rfl
@[simp] theorem present_encEnd_decIn (s : State) : (s.present .encEnd).decIn = s.decIn := rfl
@[simp] theorem present_encEnd_decOut (s : State) : (s.present .encEnd).decOut = s.decOut := rfl
@[simp] theorem present_encEnd_encRst (s : State) : (s.present .encEnd).encRst = s.encRst := rfl
@[simp] theorem present_encEnd_decRst (s : State) : (s.present .encEnd).decRst = s.decRst := rfl
@[simp] theorem present_encEnd_encCfg (s : State) : (s.present .encEnd).encCfg = s.encCfg := rfl
@[simp] theorem present_encEnd_decCfg (s : State) : (s.present .encEnd).decCfg = s.decCfg := rfl
@[simp] theorem present_encEnd_loopback (s : State) : (s.present .encEnd).loopback = s.loopback := rfl
@[simp] theorem present_encEnd_turn (s : State) : (s.present .encEnd).turn = s.turn := rfl
@[simp] theorem present_encEnd_tick (s : State) : (s.present .encEnd).tick = s.tick := rfl

@[simp] theorem present_decFbit_enc (d : Bit) (s : State) : (s.present (.decFbit d)).enc = s.enc := rfl
@[simp] theorem present_decFbit_dec (d : Bit) (s : State) : (s.present (.decFbit d)).dec = s.dec := rfl
@[simp] theorem present_decFbit_encIn (d : Bit) (s : State) : (s.present (.decFbit d)).encIn = s.encIn := rfl
@[simp] theorem present_decFbit_encOut (d : Bit) (s : State) : (s.present (.decFbit d)).encOut = s.encOut := rfl
@[simp] theorem present_decFbit_decIn (d : Bit) (s : State) : (s.present (.decFbit d)).decIn = s.decIn ++ [wordOf (.bit d)] := rfl
@[simp] theorem present_decFbit_decOut (d : Bit) (s : State) : (s.present (.decFbit d)).decOut = s.decOut := rfl
@[simp] theorem present_decFbit_encRst (d : Bit) (s : State) : (s.present (.decFbit d)).encRst = s.encRst := rfl
@[simp] theorem present_decFbit_decRst (d : Bit) (s : State) : (s.present (.decFbit d)).decRst = s.decRst := rfl
@[simp] theorem present_decFbit_encCfg (d : Bit) (s : State) : (s.present (.decFbit d)).encCfg = s.encCfg := rfl
@[simp] theorem present_decFbit_decCfg (d : Bit) (s : State) : (s.present (.decFbit d)).decCfg = s.decCfg := rfl
@[simp] theorem present_decFbit_loopback (d : Bit) (s : State) : (s.present (.decFbit d)).loopback = s.loopback := rfl
@[simp] theorem present_decFbit_turn (d : Bit) (s : State) : (s.present (.decFbit d)).turn = s.turn := rfl
@[simp] theorem present_decFbit_tick (d : Bit) (s : State) : (s.present (.decFbit d)).tick = s.tick := rfl

@[simp] theorem present_decEnd_enc (s : State) : (s.present .decEnd).enc = s.enc := rfl
@[simp] theorem present_decEnd_dec (s : State) : (s.present .decEnd).dec = s.dec := rfl
@[simp] theorem present_decEnd_encIn (s : State) : (s.present .decEnd).encIn = s.encIn := rfl
@[simp] theorem present_decEnd_encOut (s : State) : (s.present .decEnd).encOut = s.encOut := rfl
@[simp] theorem present_decEnd_decIn (s : State) : (s.present .decEnd).decIn = s.decIn ++ [wordOf .last] := rfl
@[simp] theorem present_decEnd_decOut (s : State) : (s.present .decEnd).decOut = s.decOut := rfl
@[simp] theorem present_decEnd_encRst (s : State) : (s.present .decEnd).encRst = s.encRst := rfl
@[simp] theorem present_decEnd_decRst (s : State) : (s.present .decEnd).decRst = s.decRst := rfl
@[simp] theorem present_decEnd_encCfg (s : State) : (s.present .decEnd).encCfg = s.encCfg := rfl
@[simp] theorem present_decEnd_decCfg (s : State) : (s.present .decEnd).decCfg = s.decCfg := rfl
@[simp] theorem present_decEnd_loopback (s : State) : (s.present .decEnd).loopback = s.loopback := rfl
@[simp] theorem present_decEnd_turn (s : State) : (s.present .decEnd).turn = s.turn := rfl
@[simp] theorem present_decEnd_tick (s : State) : (s.present .decEnd).tick = s.tick := rfl

@[simp] theorem present_encReset (s : State) : s.present .encReset = s := rfl
@[simp] theorem present_decReset (s : State) : s.present .decReset = s := rfl

end Sys2Proof.Machine
end

