-- ==== Sys2Proof/Laws/Ops.lean ====
section
/-! SUPPORT. One lemma per shared operation that says everything it can do, and one inversion lemma per operation of CORE. -/

namespace Sys2Proof.Machine

/-- Everything `Take(ENC_IN)` can do. -/
theorem takeEnc_eq_some {tok : Token} {s t : State} :
    takeEnc tok s = some t ↔
      ∃ w rest, s.encIn = w :: rest ∧ s.enc.running = true ∧ tokenOf w = tok ∧ t = { s with encIn := rest } := by
  unfold takeEnc
  constructor
  · intro h
    split at h
    · rename_i w rest he
      split at h
      · rename_i hc
        exact ⟨w, rest, he, hc.1, hc.2, by simpa using h.symm⟩
      · simp at h
    · simp at h
  · rintro ⟨w, rest, he, hr, ht, rfl⟩
    simp [he, hr, ht]

/-- Everything `Take(DEC_IN)` can do. -/
theorem takeDec_eq_some {tok : Token} {s t : State} :
    takeDec tok s = some t ↔
      ∃ w rest, s.decIn = w :: rest ∧ s.dec.running = true ∧ tokenOf w = tok ∧ t = { s with decIn := rest } := by
  unfold takeDec
  constructor
  · intro h
    split at h
    · rename_i w rest he
      split at h
      · rename_i hc
        exact ⟨w, rest, he, hc.1, hc.2, by simpa using h.symm⟩
      · simp at h
    · simp at h
  · rintro ⟨w, rest, he, hr, ht, rfl⟩
    simp [he, hr, ht]

/-- A token operation answers a next state exactly when its token was taken. -/
theorem onToken_eq_next {u : UnitId} {o : Option State} {k : State → State} {t : State} :
    onToken u o k = .next t ↔ ∃ s, o = some s ∧ t = k s := by
  cases o <;> simp [onToken, eq_comm]

/-- A token operation whose token was not taken is refused under its unit's name. -/
@[simp] theorem onToken_none (u : UnitId) (k : State → State) : onToken u none k = .refused (.notEnabled u) := rfl

@[simp] theorem onToken_some (u : UnitId) (s : State) (k : State → State) : onToken u (some s) k = .next (k s) := rfl

/-- `EmitField` of a value in range (00_scope R12). -/
theorem emitField_of_le {v : Nat} {s : State} (k : State → State) (h : v ≤ s.encCfg.max) :
    emitField v k s = k (pushField v s) := by
  simp [emitField, h]

/-- `EmitField` of a value above `MAX` (60_exceptions R192). -/
theorem emitField_of_lt {v : Nat} {s : State} (k : State → State) (h : s.encCfg.max < v) :
    emitField v k s = raise .enc .fieldOverflow s := by
  simp [emitField, Nat.not_le.mpr h]

/-- Everything `EmitField` can do. -/
theorem emitField_cases (v : Nat) (k : State → State) (s : State) :
    (v ≤ s.encCfg.max ∧ emitField v k s = k (pushField v s)) ∨
      (s.encCfg.max < v ∧ emitField v k s = raise .enc .fieldOverflow s) := by
  by_cases h : v ≤ s.encCfg.max
  · exact .inl ⟨h, emitField_of_le k h⟩
  · exact .inr ⟨by omega, emitField_of_lt k (by omega)⟩

theorem encArm_count {c : Config} {e : Enc} {d : Bit} (hd : d = e.pol) (hc : e.cnt ≠ c.max) : encArm c e d = .count := by
  simp [encArm, hd, hc]

theorem encArm_escape {c : Config} {e : Enc} {d : Bit} (hd : d = e.pol) (hc : e.cnt = c.max) :
    encArm c e d = .escape := by
  simp [encArm, hd, hc]

theorem encArm_flip {c : Config} {e : Enc} {d : Bit} (hd : d ≠ e.pol) : encArm c e d = .flip := by
  simp [encArm, hd]

theorem decArm_shift {c : Config} {r : Dec} (h : r.nb ≠ c.W - 1) : decArm c r = .shift := by
  simp [decArm, h]

theorem decArm_complete {c : Config} {r : Dec} (h : r.nb = c.W - 1) : decArm c r = .complete := by
  simp [decArm, h]

/-- Everything `ENC.RESET` can do (42_control R170). -/
theorem exec_encReset (s : State) : exec .encReset s = .next (resetEnc s) := rfl

/-- Everything `DEC.RESET` can do (42_control R171). -/
theorem exec_decReset (s : State) : exec .decReset s = .next (resetDec s) := rfl

/-- Everything `ENC.BIT d` can do when it answers a next state (40_encoder R110). -/
theorem exec_encBit_eq_next {d : Bit} {s t : State} :
    exec (.encBit d) s = .next t ↔
      ∃ w rest, s.encIn = w :: rest ∧ s.enc.running = true ∧ tokenOf w = .bit d ∧
        t = encBitBody d { s with encIn := rest } := by
  simp only [exec, execEncBit, onToken_eq_next, takeEnc_eq_some]
  constructor
  · rintro ⟨_, ⟨w, rest, he, hr, ht, rfl⟩, rfl⟩
    exact ⟨w, rest, he, hr, ht, rfl⟩
  · rintro ⟨w, rest, he, hr, ht, rfl⟩
    exact ⟨_, ⟨w, rest, he, hr, ht, rfl⟩, rfl⟩

/-- Everything `ENC.END` can do when it answers a next state (40_encoder R115). -/
theorem exec_encEnd_eq_next {s t : State} :
    exec .encEnd s = .next t ↔
      ∃ w rest, s.encIn = w :: rest ∧ s.enc.running = true ∧ tokenOf w = .last ∧
        t = encEndBody { s with encIn := rest } := by
  simp only [exec, execEncEnd, onToken_eq_next, takeEnc_eq_some]
  constructor
  · rintro ⟨_, ⟨w, rest, he, hr, ht, rfl⟩, rfl⟩
    exact ⟨w, rest, he, hr, ht, rfl⟩
  · rintro ⟨w, rest, he, hr, ht, rfl⟩
    exact ⟨_, ⟨w, rest, he, hr, ht, rfl⟩, rfl⟩

/-- Everything `DEC.FBIT d` can do when it answers a next state (41_decoder R140). -/
theorem exec_decFbit_eq_next {d : Bit} {s t : State} :
    exec (.decFbit d) s = .next t ↔
      ∃ w rest, s.decIn = w :: rest ∧ s.dec.running = true ∧ tokenOf w = .bit d ∧
        t = decFbitBody d { s with decIn := rest } := by
  simp only [exec, execDecFbit, onToken_eq_next, takeDec_eq_some]
  constructor
  · rintro ⟨_, ⟨w, rest, he, hr, ht, rfl⟩, rfl⟩
    exact ⟨w, rest, he, hr, ht, rfl⟩
  · rintro ⟨w, rest, he, hr, ht, rfl⟩
    exact ⟨_, ⟨w, rest, he, hr, ht, rfl⟩, rfl⟩

/-- Everything `DEC.END` can do when it answers a next state (41_decoder R143). -/
theorem exec_decEnd_eq_next {s t : State} :
    exec .decEnd s = .next t ↔
      ∃ w rest, s.decIn = w :: rest ∧ s.dec.running = true ∧ tokenOf w = .last ∧
        t = decEndBody { s with decIn := rest } := by
  simp only [exec, execDecEnd, onToken_eq_next, takeDec_eq_some]
  constructor
  · rintro ⟨_, ⟨w, rest, he, hr, ht, rfl⟩, rfl⟩
    exact ⟨w, rest, he, hr, ht, rfl⟩
  · rintro ⟨w, rest, he, hr, ht, rfl⟩
    exact ⟨_, ⟨w, rest, he, hr, ht, rfl⟩, rfl⟩

end Sys2Proof.Machine
end

