-- ==== Sys2Proof/Laws/Bodies.lean ====
section
/-! SUPPORT. What the body of each token operation does to the state, arm by arm, and one lemma per body that lists its arms. -/

namespace Sys2Proof.Machine

/-- The tokens of one field on `ENC_OUT` (00_scope R12). -/
def fieldTokens (c : Config) (v : Nat) : List OutToken := (ser c.W v).map .bit

theorem encBitBody_count {d : Bit} {s : State} (hd : d = s.enc.pol) (hc : s.enc.cnt ≠ s.encCfg.max) :
    encBitBody d s = { s with enc := { s.enc with cnt := s.enc.cnt + 1 } } := by
  simp [encBitBody, encArm_count hd hc, encCount]

theorem encBitBody_escape {d : Bit} {s : State} (hd : d = s.enc.pol) (hc : s.enc.cnt = s.encCfg.max) :
    encBitBody d s =
      { appendEncOut (fieldTokens s.encCfg s.encCfg.max ++ fieldTokens s.encCfg 0) s with
        enc := { s.enc with
          cnt := 1
          fields := s.enc.fields ++ [s.encCfg.max, 0]
          out := s.enc.out ++ (fieldTokens s.encCfg s.encCfg.max ++ fieldTokens s.encCfg 0).map wordOfOut } } := by
  rw [encBitBody, encArm_escape hd hc]
  show encEscape s = _
  rw [encEscape, emitField_of_le _ le_rfl, emitField_of_le _ (Nat.zero_le _)]
  cases hl : s.loopback <;> simp [pushField, appendEncOut, fieldTokens, hl]

theorem encBitBody_flip {d : Bit} {s : State} (hd : d ≠ s.enc.pol) (hc : s.enc.cnt ≤ s.encCfg.max) :
    encBitBody d s =
      { appendEncOut (fieldTokens s.encCfg s.enc.cnt) s with
        enc := { s.enc with
          cnt := 1
          pol := !s.enc.pol
          fields := s.enc.fields ++ [s.enc.cnt]
          out := s.enc.out ++ (fieldTokens s.encCfg s.enc.cnt).map wordOfOut } } := by
  rw [encBitBody, encArm_flip hd]
  show encFlip s = _
  rw [encFlip, emitField_of_le _ hc]
  simp [pushField, appendEncOut, fieldTokens, togglePol]

theorem encBitBody_overflow {d : Bit} {s : State} (hd : d ≠ s.enc.pol) (hc : s.encCfg.max < s.enc.cnt) :
    encBitBody d s = raise .enc .fieldOverflow s := by
  rw [encBitBody, encArm_flip hd]
  exact emitField_of_lt _ hc

/-- Everything the body of `ENC.BIT d` can do (40_encoder R111, 60_exceptions R192). -/
theorem encBitBody_cases (d : Bit) (s : State) :
    (d = s.enc.pol ∧ s.enc.cnt ≠ s.encCfg.max ∧
      encBitBody d s = { s with enc := { s.enc with cnt := s.enc.cnt + 1 } }) ∨
    (d = s.enc.pol ∧ s.enc.cnt = s.encCfg.max ∧
      encBitBody d s =
        { appendEncOut (fieldTokens s.encCfg s.encCfg.max ++ fieldTokens s.encCfg 0) s with
          enc := { s.enc with
            cnt := 1
            fields := s.enc.fields ++ [s.encCfg.max, 0]
            out := s.enc.out ++ (fieldTokens s.encCfg s.encCfg.max ++ fieldTokens s.encCfg 0).map wordOfOut } }) ∨
    (d ≠ s.enc.pol ∧ s.enc.cnt ≤ s.encCfg.max ∧
      encBitBody d s =
        { appendEncOut (fieldTokens s.encCfg s.enc.cnt) s with
          enc := { s.enc with
            cnt := 1
            pol := !s.enc.pol
            fields := s.enc.fields ++ [s.enc.cnt]
            out := s.enc.out ++ (fieldTokens s.encCfg s.enc.cnt).map wordOfOut } }) ∨
    (d ≠ s.enc.pol ∧ s.encCfg.max < s.enc.cnt ∧ encBitBody d s = raise .enc .fieldOverflow s) := by
  by_cases hd : d = s.enc.pol
  · by_cases hc : s.enc.cnt = s.encCfg.max
    · exact .inr (.inl ⟨hd, hc, encBitBody_escape hd hc⟩)
    · exact .inl ⟨hd, hc, encBitBody_count hd hc⟩
  · rcases Nat.lt_or_ge s.encCfg.max s.enc.cnt with hc | hc
    · exact .inr (.inr (.inr ⟨hd, hc, encBitBody_overflow hd hc⟩))
    · exact .inr (.inr (.inl ⟨hd, hc, encBitBody_flip hd hc⟩))

theorem encEndBody_close {s : State} (hc : s.enc.cnt ≤ s.encCfg.max) :
    encEndBody s =
      { appendEncOut (fieldTokens s.encCfg s.enc.cnt ++ [OutToken.close]) s with
        enc := { s.enc with
          phase := .done
          fields := s.enc.fields ++ [s.enc.cnt]
          out := s.enc.out ++ (fieldTokens s.encCfg s.enc.cnt ++ [OutToken.close]).map wordOfOut } } := by
  rw [encEndBody, emitField_of_le _ hc]
  cases hl : s.loopback <;> simp [pushField, appendEncOut, outCloseEnc, fieldTokens, hl]

theorem encEndBody_overflow {s : State} (hc : s.encCfg.max < s.enc.cnt) :
    encEndBody s = raise .enc .fieldOverflow s := emitField_of_lt _ hc

/-- Everything the body of `ENC.END` can do (40_encoder R115, 60_exceptions R192). -/
theorem encEndBody_cases (s : State) :
    (s.enc.cnt ≤ s.encCfg.max ∧
      encEndBody s =
        { appendEncOut (fieldTokens s.encCfg s.enc.cnt ++ [OutToken.close]) s with
          enc := { s.enc with
            phase := .done
            fields := s.enc.fields ++ [s.enc.cnt]
            out := s.enc.out ++ (fieldTokens s.encCfg s.enc.cnt ++ [OutToken.close]).map wordOfOut } }) ∨
    (s.encCfg.max < s.enc.cnt ∧ encEndBody s = raise .enc .fieldOverflow s) := by
  rcases Nat.lt_or_ge s.encCfg.max s.enc.cnt with hc | hc
  · exact .inr ⟨hc, encEndBody_overflow hc⟩
  · exact .inl ⟨hc, encEndBody_close hc⟩

/-- Everything the body of `DEC.FBIT d` can do (41_decoder R141, R142). -/
theorem decFbitBody_cases (d : Bit) (s : State) :
    (s.dec.nb ≠ s.decCfg.W - 1 ∧
      decFbitBody d s = { s with dec := { s.dec with sh := shiftIn s.dec.sh d, nb := s.dec.nb + 1 } }) ∨
    (s.dec.nb = s.decCfg.W - 1 ∧
      decFbitBody d s =
        { s with
          decOut := s.decOut ++ List.replicate (shiftIn s.dec.sh d) (wordOfOut (.bit s.dec.pol))
          dec := { s.dec with
            pol := !s.dec.pol
            sh := 0
            nb := 0
            out := s.dec.out ++ List.replicate (shiftIn s.dec.sh d) (wordOfOut (.bit s.dec.pol)) } }) := by
  by_cases h : s.dec.nb = s.decCfg.W - 1
  · refine .inr ⟨h, ?_⟩
    rw [decFbitBody, decArm_complete h]
    simp [decComplete, outBitsDec, appendDecOut, togglePol]
  · refine .inl ⟨h, ?_⟩
    rw [decFbitBody, decArm_shift h]
    rfl

/-- Everything the body of `DEC.END` can do (41_decoder R143). -/
theorem decEndBody_cases (s : State) :
    (s.dec.nb = 0 ∧
      decEndBody s =
        { s with
          decOut := s.decOut ++ [wordOfOut .close]
          dec := { s.dec with phase := .done, out := s.dec.out ++ [wordOfOut .close] } }) ∨
    (s.dec.nb ≠ 0 ∧ decEndBody s = raise .dec .formatError s) := by
  by_cases h : s.dec.nb = 0
  · exact .inl ⟨h, by simp [decEndBody, h, outCloseDec, appendDecOut]⟩
  · exact .inr ⟨h, by simp [decEndBody, h]⟩

end Sys2Proof.Machine
end

