-- ==== Sys2Proof/Laws/PerInstr.lean ====
section
/-! SUPPORT. One family of statements per instruction: the word that presents it carries the bits of its row of spec/opcode_table.json. -/

namespace Sys2Proof.Laws

namespace TableRow

/-- Mask and match of an operation's row of spec/opcode_table.json, and the port's width (30_encoding R81, R82, R86). -/
def row : Instr → Nat × Nat × Nat
  | .encReset => (1, 1, 1)
  | .encBit _ => (2, 2, 0)
  | .encEnd => (2, 2, 2)
  | .decReset => (1, 1, 1)
  | .decFbit _ => (2, 2, 0)
  | .decEnd => (2, 2, 2)

/-- The encoded word fits the row's width and carries the row's fixed bits, and the operation is well formed. -/
def Statement (i : Instr) : Prop :=
  i.wf = true ∧ (encode i).2 < 2 ^ (row i).1 ∧ (encode i).2 &&& (row i).2.1 = (row i).2.2

theorem encReset : Statement .encReset := ⟨rfl, by decide, by decide⟩

theorem encBit (d : Bit) : Statement (.encBit d) := by
  refine ⟨rfl, ?_, ?_⟩ <;> cases d <;> decide

theorem encEnd : Statement .encEnd := ⟨rfl, by decide, by decide⟩

theorem decReset : Statement .decReset := ⟨rfl, by decide, by decide⟩

theorem decFbit (d : Bit) : Statement (.decFbit d) := by
  refine ⟨rfl, ?_, ?_⟩ <;> cases d <;> decide

theorem decEnd : Statement .decEnd := ⟨rfl, by decide, by decide⟩

end TableRow

end Sys2Proof.Laws
end

