-- ==== Sys2Proof/Laws/Program.lean ====
section
/-! SUPPORT. How a program splits into its operations and its parts, the words of concatenated streams, and the result that a channel holds. -/

namespace Sys2Proof.Machine

@[simp] theorem drive_nil (s : State) : drive [] s = .next s := rfl

/-- A program whose first operation completes goes on with the rest. -/
theorem drive_cons_of_next {i : Instr} {is : List Instr} {s t : State} (h : exec i (s.present i) = .next t) :
    drive (i :: is) s = drive is t := by
  simp [drive, h]

/-- A program that completes ran its first operation and then the rest. -/
theorem drive_cons_eq_next {i : Instr} {is : List Instr} {s u : State} :
    drive (i :: is) s = .next u ↔ ∃ t, exec i (s.present i) = .next t ∧ drive is t = .next u := by
  rw [drive.eq_2]
  cases exec i (s.present i) <;> simp

/-- A program that completes ran its first part and then its second. -/
theorem drive_append_eq_next {a b : List Instr} {s u : State} :
    drive (a ++ b) s = .next u ↔ ∃ t, drive a s = .next t ∧ drive b t = .next u := by
  induction a generalizing s with
  | nil => simp
  | cons i is ih =>
    rw [List.cons_append, drive_cons_eq_next]
    constructor
    · rintro ⟨v, hi, hv⟩
      obtain ⟨t, h1, h2⟩ := ih.mp hv
      exact ⟨t, drive_cons_eq_next.mpr ⟨v, hi, h1⟩, h2⟩
    · rintro ⟨t, h1, h2⟩
      obtain ⟨v, hi, hv⟩ := drive_cons_eq_next.mp h1
      exact ⟨v, hi, ih.mpr ⟨t, hv, h2⟩⟩

@[simp] theorem bitWords_append (a b : List Bit) : bitWords (a ++ b) = bitWords a ++ bitWords b := by
  simp [bitWords]

@[simp] theorem fieldWords_append (c : Config) (f g : List Nat) :
    fieldWords c (f ++ g) = fieldWords c f ++ fieldWords c g := by
  simp [fieldWords, serFields, bitWords]

@[simp] theorem fieldWords_nil (c : Config) : fieldWords c [] = [] := rfl

/-- The words `EmitField` appends are those of the one field (00_scope R12, 20_memory R54). -/
theorem fieldWords_singleton (c : Config) (v : Nat) :
    fieldWords c [v] = ((ser c.W v).map OutToken.bit).map wordOfOut := by
  simp [fieldWords, serFields, bitWords, wordOfOut_bit]

theorem resultOf_bitWords (b : List Bit) (ws : List Word) :
    resultOf (bitWords b ++ ws) = (resultOf ws).map (b ++ ·) := by
  induction b with
  | nil => cases h : resultOf ws <;> simp [bitWords, h]
  | cons x xs ih =>
    have ih' : resultOf (xs.map (fun b => wordOf (.bit b)) ++ ws) = (resultOf ws).map (xs ++ ·) := ih
    simp [bitWords, resultOf, ih']
    cases resultOf ws <;> simp

/-- A channel that holds bits and then `CLOSE` has these bits as its result (20_memory R69). -/
theorem resultOf_closed (b : List Bit) (ws : List Word) :
    resultOf (bitWords b ++ wordOfOut .close :: ws) = some b := by
  rw [resultOf_bitWords]
  simp [resultOf]

end Sys2Proof.Machine
end

