-- ==== Sys2Proof/Laws/Step.lean ====
section
/-! SUPPORT. What the selection of the next operation and one step can do. -/

namespace Sys2Proof.Machine

/-- The encoder's next operation, spelled out (30_encoding R86). -/
theorem selectEnc_eq (s : State) :
    selectEnc s =
      if s.encRst then some .encReset
      else match s.enc.running, s.encIn with
        | true, w :: _ => some (tokenInstr .enc (tokenOf w))
        | _, _ => none := by
  unfold selectEnc selectUnit
  cases h : s.encRst <;> simp
  cases s.enc.running <;> cases s.encIn <;> simp [Except.toOption]

/-- The decoder's next operation, spelled out (30_encoding R86). -/
theorem selectDec_eq (s : State) :
    selectDec s =
      if s.decRst then some .decReset
      else match s.dec.running, s.decIn with
        | true, w :: _ => some (tokenInstr .dec (tokenOf w))
        | _, _ => none := by
  unfold selectDec selectUnit
  cases h : s.decRst <;> simp
  cases s.dec.running <;> cases s.decIn <;> simp [Except.toOption]

/-- Everything a fetch can answer: one unit's own operation, run in a state that differs from `s` at most in the reset
pulse taken and the model's scheduling fields. -/
theorem fetch_eq_some {s t : State} {i : Instr} (h : fetch s = some (i, t)) :
    (selectEnc s = some i ∨ selectDec s = some i) ∧
      (t = consumePulse i s ∨ t = consumePulse i (drawTurn s)) := by
  unfold fetch at h
  split at h
  · simp at h
  · rename_i he _
    obtain ⟨rfl, rfl⟩ : _ ∧ _ := by simpa using h
    exact ⟨.inl he, .inl rfl⟩
  · rename_i hd
    obtain ⟨rfl, rfl⟩ : _ ∧ _ := by simpa using h
    exact ⟨.inr hd, .inl rfl⟩
  · rename_i he hd
    split at h
    · obtain ⟨rfl, rfl⟩ : _ ∧ _ := by simpa using h
      exact ⟨.inl he, .inr rfl⟩
    · obtain ⟨rfl, rfl⟩ : _ ∧ _ := by simpa using h
      exact ⟨.inr hd, .inr rfl⟩

/-- Everything a step that answers a next state can be: the execution of a fetched operation. -/
theorem step_eq_next {s t : State} (h : step s = .next t) : ∃ i u, fetch s = some (i, u) ∧ exec i u = .next t := by
  unfold step at h
  split at h
  · rename_i i u hf
    exact ⟨i, u, hf, h⟩
  · simp at h

end Sys2Proof.Machine
end

