-- ==== Sys2Proof/Tests/Slice0.lean ====
section
/-! SUPPORT. Small tests, each from a word, a vector or an example of spec/ (named in its comment), and for every statement with hypotheses a witness that meets them. -/

namespace Sys2Proof.Machine.Tests

/-- The next state of an outcome, if there is one. -/
def nextOf : Result → Option State
  | .next t => some t
  | _ => none

def cfg (w : Nat) (p : Bit) (h : 1 ≤ w := by decide) : Config := ⟨w, p, h⟩

/-- An encoder in RUN with the given registers and input words. -/
def encAt (c : Config) (pol : Bit) (cnt : Nat) (ws : List Word) : State :=
  { State.reset with encCfg := c, decCfg := c, enc := { Enc.init c with pol := pol, cnt := cnt }, encIn := ws }

/-- A decoder in RUN with the given registers and input words. -/
def decAt (c : Config) (pol : Bit) (sh nb : Nat) (ws : List Word) : State :=
  { State.reset with
    encCfg := c, decCfg := c, dec := { Dec.init c with pol := pol, sh := sh, nb := nb }, decIn := ws }

/-! ## WellFormed: an ill-formed term for each check, which the check refuses -/

theorem test_field_above_max_is_ill_formed : fieldWf (cfg 8 false) 256 = false ∧ fieldWf (cfg 8 false) 255 = true := by
  decide

theorem test_fields_with_one_above_max_are_ill_formed : fieldsWf (cfg 3 false) [7, 0, 8] = false := by decide

theorem test_run_without_end_is_ill_formed : runTokensWf [.bit true, .bit false] = false := by decide

theorem test_run_with_token_after_end_is_ill_formed : runTokensWf [.bit true, .last, .bit false] = false := by decide

theorem test_run_with_end_is_well_formed : runTokensWf [.bit true, .last] = true := by decide

/-- No operation is ill formed: every token word decodes (30_encoding R88). -/
theorem test_every_operation_is_well_formed : (Instr.encBit true).wf = true ∧ Instr.decEnd.wf = true := by decide

/-! ## Decoding: words written out from 30_encoding R81, R82 and opcode_table.json -/

theorem test_decode_enc_reset : decode .encRst 0b1 = .ok .encReset := by decide
theorem test_decode_enc_bit : decode .encIn 0b01 = .ok (.encBit true) := by decide
theorem test_decode_enc_end : decode .encIn 0b10 = .ok .encEnd := by decide
theorem test_decode_dec_reset : decode .decRst 0b1 = .ok .decReset := by decide
theorem test_decode_dec_fbit : decode .decIn 0b01 = .ok (.decFbit true) := by decide
theorem test_decode_dec_end_ignores_data : decode .decIn 0b11 = .ok .decEnd := by decide

/-- A table word of the encoder's rows, as the host numbers it. -/
theorem test_table_words :
    decodeTableWord 8 1 = some .encReset ∧ decodeTableWord 8 0 = some (.encBit false) ∧
      decodeTableWord 8 2 = some .encEnd ∧ decodeTableWord 8 4 = none ∧ decodeTableWord 2 1 = some (.encBit true) := by
  decide

/-! ## One operation: vectors of 95_test_vectors sections 2.1, 2.3 and 2.5 -/

/-- A5: the escape arm at `W = 8`. -/
theorem test_A5_escape :
    (nextOf (exec (.encBit false) (encAt (cfg 8 false) false 255 [0]))).map
        (fun t => (t.enc.pol, t.enc.cnt, t.enc.fields, t.encOut)) =
      some (false, 1, [255, 0], [1, 1, 1, 1, 1, 1, 1, 1, 0, 0, 0, 0, 0, 0, 0, 0]) := by
  decide

/-- A11: the flip arm; 45 is `00101101`. -/
theorem test_A11_flip :
    (nextOf (exec (.encBit true) (encAt (cfg 8 false) false 45 [1]))).map
        (fun t => (t.enc.pol, t.enc.cnt, t.encOut)) =
      some (true, 1, [0, 0, 1, 0, 1, 1, 0, 1]) := by
  decide

/-- A26: `ENC.END` at the saturated counter emits `MAX`, no zero field, and `CLOSE`. -/
theorem test_A26_end :
    (nextOf (exec .encEnd (encAt (cfg 8 false) true 255 [2]))).map
        (fun t => (t.enc.cnt, t.enc.phase, t.encOut)) =
      some (255, .done, [1, 1, 1, 1, 1, 1, 1, 1, 2]) := by
  decide

/-- K11: the word `11` is `END`. -/
theorem test_K11_end_word_with_data :
    (nextOf (step (encAt (cfg 8 false) false 2 [3]))).map (fun t => (t.enc.phase, t.encOut)) =
      some (.done, [0, 0, 0, 0, 0, 0, 1, 0, 2]) := by
  decide

/-- B9: a completed field of 5 ones. -/
theorem test_B9_complete :
    (nextOf (exec (.decFbit true) (decAt (cfg 8 false) true 2 7 [1]))).map
        (fun t => (t.dec.pol, t.dec.sh, t.dec.nb, t.decOut)) =
      some (false, 0, 0, [1, 1, 1, 1, 1]) := by
  decide

/-- B6: the shift arm. -/
theorem test_B6_shift :
    (nextOf (exec (.decFbit true) (decAt (cfg 8 false) false 5 3 [1]))).map
        (fun t => (t.dec.pol, t.dec.sh, t.dec.nb, t.decOut)) =
      some (false, 11, 4, []) := by
  decide

/-- B23: `DEC.END` inside a field. -/
theorem test_B23_format_error :
    (nextOf (exec .decEnd (decAt (cfg 8 false) true 0 4 [2]))).map
        (fun t => (t.dec.pol, t.dec.nb, t.dec.phase, t.dec.err, t.decOut)) =
      some (true, 4, .fault, .formatError, []) := by
  decide

/-- B22: `DEC.END` on a field boundary. -/
theorem test_B22_close :
    (nextOf (exec .decEnd (decAt (cfg 8 false) true 0 0 [2]))).map (fun t => (t.dec.phase, t.dec.err, t.decOut)) =
      some (.done, .noError, [2]) := by
  decide

/-- K3: `ENC.RESET` with `P0 = 1`. -/
theorem test_K3_reset_polarity :
    (nextOf (exec .encReset (encAt (cfg 8 true) false 5 [1]))).map (fun t => (t.enc.pol, t.enc.cnt, t.encIn)) =
      some (true, 0, [1]) := by
  decide

/-- K5: reset has priority over a token, which is not taken. -/
theorem test_K5_reset_priority :
    (nextOf (step { encAt (cfg 8 false) false 3 [0] with encRst := true })).map
        (fun t => (t.enc.cnt, t.encIn, t.encRst)) =
      some (0, [0], false) := by
  decide

/-- K2: `DEC.RESET` from a fault. -/
theorem test_K2_reset_from_fault :
    (nextOf (exec .decReset
        { State.reset with dec := ⟨true, true, 0, 4, .fault, .formatError, []⟩ })).map (fun t => t.dec) =
      some (Dec.init Config.reference) := by
  decide

/-- K4: at power-on a token is not taken, whatever the registers hold. -/
theorem test_K4_power_on (e : Enc) (d : Dec) (c : Config) (u : UnitId) (n : Nat) :
    step { State.powerOn e d c c false false false u n with encIn := [0] } = .refused .idle := by
  simp [step, fetch, selectEnc_eq, selectDec_eq, State.powerOn, Enc.running, Dec.running]

/-- K13: waiting is no step. -/
theorem test_K13_waiting : nextOf (step (decAt (cfg 8 false) false 0 3 [])) = none := by decide

/-- The reset state is what the two reset operations leave (10_state R35). -/
theorem test_reset_state_is_after_both_resets : resetDec (resetEnc State.reset) = State.reset := by decide

/-- The presented operation is the one the next step runs. -/
theorem test_withFetchWord_runs_it :
    (nextOf (step (State.reset.withFetchWord 8 0))).map (fun t => t.enc.cnt) = some 1 ∧
      (nextOf (step (State.reset.withFetchWord 8 2))).map (fun t => t.enc.phase) = some .done := by
  decide

/-- `hasMoreBits` on a bit, on `END` and on an empty channel (20_memory R53, R72). -/
theorem test_hasMoreBits : hasMoreBits [1] = some true ∧ hasMoreBits [2] = some false ∧ hasMoreBits [] = none := by
  decide

/-- 70_reset R231: the host drains the channels of the unit it names, and only those. -/
theorem test_drain :
    let s := { encAt (cfg 8 false) false 0 [1] with encOut := [0], decIn := [1], decOut := [0] }
    (s.drain .enc).encIn = [] ∧ (s.drain .enc).encOut = [] ∧ (s.drain .enc).decIn = [1] ∧
      ((s.drain .dec).pulseReset .dec).decOut = [] ∧ ((s.drain .dec).pulseReset .dec).decRst = true := by
  decide

/-- P6: the host removes the stray token from `ENC_IN` and keeps the closed output of run 1 on `ENC_OUT`. -/
theorem test_P6_stray_token_removed :
    let s := { encAt (cfg 1 true) true 1 [1] with encOut := [0, 1, 0, 1, 1, 2] }
    (s.drainInput .enc).encIn = [] ∧ (s.drainInput .enc).encOut = [0, 1, 0, 1, 1, 2] := by
  decide

/-- 70_reset R231 with 20_memory R68: in a loopback the encoder's output stands in the shared channel and is discarded. -/
theorem test_drain_in_loopback :
    let s := { encAt (cfg 8 false) false 0 [1] with decIn := [0, 1], loopback := true }
    s.encOutChannel = [0, 1] ∧ (s.drain .enc).encOutChannel = [] := by
  decide

/-- K12: the second run's result is its own, not that of the run that stands before it on the channel. -/
theorem test_K12_second_run_result :
    let s := { encAt (cfg 2 false) true 1 [2] with encOut := [0, 1, 2] }
    (nextOf (exec .encEnd { s with enc := { s.enc with fields := [0], out := [0, 0] } })).map
        (fun t => (t.encResult, t.encOut)) =
      some (some [false, false, false, true], [0, 1, 2, 0, 1, 2]) := by
  decide

/-- P3: in a loopback the encoder's result stays when the decoder takes a token of the shared channel. -/
theorem test_P3_result_stays_when_tokens_are_taken :
    let e := { Enc.init (cfg 1 false) with cnt := 1, phase := .done, fields := [1], out := [1, 2] }
    let s := { decAt (cfg 1 false) false 0 0 [1, 2] with enc := e, loopback := true }
    (nextOf (step s)).map (fun t => (t.encResult, t.decIn)) = some (some [true], [2]) := by
  decide

/-! ## The pure functions: 95_test_vectors section 2.8 -/

/-- Q1, Q7, Q8. -/
theorem test_ser_deser :
    ser 8 45 = [false, false, true, false, true, true, false, true] ∧
      deser [false, false, false, false, true, false, false, false] = 8 := by
  decide

/-- Q11, Q13. -/
theorem test_split :
    split (cfg 8 false) 300 = [255, 0, 45] ∧ split (cfg 1 false) 3 = [1, 0, 1, 0, 1] := by
  decide

/-- Q18. -/
theorem test_runs :
    runs false [true, true, true, false, false] = [0, 3, 2] ∧ runs true [true, true, true, false, false] = [3, 2] := by
  decide

/-- Q20. -/
theorem test_decode_fields : decodeFields true [3, 0, 2] = [true, true, true, true, true] := by decide

/-! ## Witnesses: the hypotheses of each statement can be met together, at the boundary of their ranges -/

theorem witness_EncBitCountsBelowSaturation :
    let s := encAt (cfg 8 false) false 254 [0]
    s.enc.running = true ∧ s.encIn = 0 :: [] ∧ tokenOf 0 = .bit false ∧ false = s.enc.pol ∧ s.enc.cnt < s.encCfg.max := by
  decide

theorem witness_EncBitEscapesAtSaturation_full :
    let s := encAt (cfg 8 false) true 255 [1]
    s.enc.running = true ∧ s.encIn = 1 :: [] ∧ tokenOf 1 = .bit true ∧ true = s.enc.pol ∧ s.enc.cnt = s.encCfg.max := by
  decide

theorem witness_EncBitEscapesAtSaturation_lazy :
    let s := encAt (cfg 1 false) false 0 [0]
    s.enc.running = true ∧ s.encIn = 0 :: [] ∧ tokenOf 0 = .bit false ∧ false = s.enc.pol ∧
      s.enc.cnt + 1 = s.encCfg.max := by
  decide

theorem witness_EncBitFlipsOnDifferingBit :
    let s := encAt (cfg 8 false) false 255 [1]
    s.enc.running = true ∧ s.encIn = 1 :: [] ∧ tokenOf 1 = .bit true ∧ true ≠ s.enc.pol ∧ s.enc.cnt ≤ s.encCfg.max := by
  decide

theorem witness_EncEndEmitsAndCloses :
    let s := encAt (cfg 8 false) false 255 [3]
    s.enc.running = true ∧ s.encIn = 3 :: [] ∧ tokenOf 3 = .last ∧ s.enc.cnt ≤ s.encCfg.max := by
  decide

theorem witness_OversizedCounterRaisesFieldOverflow_bit :
    let s := encAt (cfg 8 false) false 256 [1]
    s.enc.running = true ∧ s.encIn = 1 :: [] ∧ tokenOf 1 = .bit true ∧ true ≠ s.enc.pol ∧ s.encCfg.max < s.enc.cnt := by
  decide

theorem witness_OversizedCounterRaisesFieldOverflow_end :
    let s := encAt (cfg 8 false) false 256 [2]
    s.enc.running = true ∧ s.encIn = 2 :: [] ∧ tokenOf 2 = .last ∧ s.encCfg.max < s.enc.cnt := by
  decide

theorem witness_DecFbitShiftsInsideField :
    let s := decAt (cfg 8 false) false 63 6 [1]
    s.dec.running = true ∧ s.decIn = 1 :: [] ∧ tokenOf 1 = .bit true ∧ s.dec.nb < s.decCfg.W - 1 := by
  decide

theorem witness_DecFbitShiftsInsideField_narrow : (decAt (cfg 1 false) false 0 0 []).decCfg.W = 1 := by decide

/-- Also the hypotheses of the first clause of `EscapeIsTransparentToTheDecoder`, a zero field among them. -/
theorem witness_DecFbitCompletesField :
    (let s := decAt (cfg 8 false) true 127 7 [1]
     s.dec.running = true ∧ s.decIn = 1 :: [] ∧ tokenOf 1 = .bit true ∧ s.dec.nb = s.decCfg.W - 1) ∧
    (let s := decAt (cfg 1 false) true 0 0 [0]
     s.dec.running = true ∧ s.decIn = 0 :: [] ∧ tokenOf 0 = .bit false ∧ s.dec.nb = s.decCfg.W - 1 ∧ s.dec.sh = 0) := by
  decide

theorem witness_DecEndClosesOrRaisesFormatError_close :
    let s := decAt (cfg 8 false) true 0 0 [2]
    s.dec.running = true ∧ s.decIn = 2 :: [] ∧ tokenOf 2 = .last ∧ s.dec.nb = 0 := by
  decide

theorem witness_DecEndClosesOrRaisesFormatError_raise :
    let s := decAt (cfg 8 false) false 1 1 [2]
    s.dec.running = true ∧ s.decIn = 2 :: [] ∧ tokenOf 2 = .last ∧ s.dec.nb ≠ 0 := by
  decide

/-- Each reason a unit takes no tokens, for each unit. -/
theorem witness_TokenOperationsOnlyInRun :
    (State.powerOn (Enc.init (cfg 8 false)) (Dec.init (cfg 8 false)) (cfg 8 false) (cfg 8 false) false false false .enc 0).enc.live = false ∧
    { State.reset with enc := { State.reset.enc with phase := .done } }.enc.phase ≠ .run ∧
    (State.powerOn (Enc.init (cfg 8 false)) (Dec.init (cfg 8 false)) (cfg 8 false) (cfg 8 false) false false false .enc 0).dec.live = false ∧
    { State.reset with dec := { State.reset.dec with phase := .fault } }.dec.phase ≠ .run := by
  decide

theorem witness_TokenOperationNeedsItsTokenAtTheHead :
    (State.reset.encIn.head?).map tokenOf ≠ some (.bit true) ∧
    ((encAt (cfg 8 false) false 0 [0]).encIn.head?).map tokenOf ≠ some .last ∧
    (State.reset.decIn.head?).map tokenOf ≠ some (.bit true) ∧
    ((decAt (cfg 8 false) false 0 0 [0]).decIn.head?).map tokenOf ≠ some .last := by
  decide

/-- One unit over, the other waiting. -/
theorem witness_NothingEnabledIsNoStep :
    let s := { State.reset with enc := { State.reset.enc with phase := .done }, encIn := [1] }
    s.encRst = false ∧ s.decRst = false ∧ (s.enc.running = false ∨ s.encIn = []) ∧
      (s.dec.running = false ∨ s.decIn = []) := by
  decide

theorem witness_ResetHasPriorityOverToken :
    (let s := { encAt (cfg 8 false) false 3 [0] with encRst := true }
     s.encRst = true ∧ selectDec s = none) ∧
    (let s := { decAt (cfg 8 false) false 0 3 [0] with decRst := true }
     s.decRst = true ∧ selectEnc s = none) := by
  decide

theorem witness_StepRunsTheDecodedOperation_enc :
    let s := encAt (cfg 8 false) false 3 [3]
    s.encRst = false ∧ s.enc.running = true ∧ s.encIn = 3 :: [] ∧ decode .encIn (3 : Word).toNat = .ok .encEnd ∧
      selectDec s = none := by
  decide

theorem witness_StepRunsTheDecodedOperation_dec :
    let s := decAt (cfg 8 false) false 0 0 [1]
    s.decRst = false ∧ s.dec.running = true ∧ s.decIn = 1 :: [] ∧ decode .decIn (1 : Word).toNat = .ok (.decFbit true) ∧
      selectEnc s = none := by
  decide

theorem witness_StepRunsTheDecodedOperation_both :
    (let s := { encAt (cfg 8 false) false 3 [0] with decRst := true }
     selectEnc s = some (.encBit false) ∧ selectDec s = some .decReset ∧ s.turn = .enc) ∧
    (let s := { encAt (cfg 8 false) false 3 [0] with decIn := [1], turn := .dec }
     selectEnc s = some (.encBit false) ∧ selectDec s = some (.decFbit true) ∧ s.turn = .dec) := by
  decide

theorem witness_DecodeAndEncodeAgree :
    (Instr.decFbit true).wf = true ∧ decode .decIn 0b11 = .ok .decEnd := by
  decide

theorem witness_SerialisingAFieldIsLossless : 255 < 2 ^ 8 := by decide

/-- Every operation completes somewhere: the hypothesis `exec i s = .next t` of the whole-machine rules. -/
theorem witness_exec_completes :
    (∃ t, exec .encReset State.reset = .next t) ∧
    (∃ t, exec (.encBit true) (encAt (cfg 8 false) false 0 [1]) = .next t) ∧
    (∃ t, exec .encEnd (encAt (cfg 8 false) false 0 [2]) = .next t) ∧
    (∃ t, exec .decReset State.reset = .next t) ∧
    (∃ t, exec (.decFbit true) (decAt (cfg 8 false) false 0 0 [1]) = .next t) ∧
    (∃ t, exec .decEnd (decAt (cfg 8 false) false 0 0 [2]) = .next t) :=
  ⟨⟨_, rfl⟩, ⟨_, rfl⟩, ⟨_, rfl⟩, ⟨_, rfl⟩, ⟨_, rfl⟩, ⟨_, rfl⟩⟩

/-- `OnlyTheNamedOperationsRaise`: an error newly shown, in each unit. -/
theorem witness_OnlyTheNamedOperationsRaise :
    (∃ t, exec .decEnd (decAt (cfg 8 false) false 1 1 [2]) = .next t ∧
      t.dec.err ≠ (decAt (cfg 8 false) false 1 1 [2]).dec.err ∧ t.dec.err ≠ .noError) ∧
    (∃ t, exec .encEnd (encAt (cfg 8 false) false 256 [2]) = .next t ∧
      t.enc.err ≠ (encAt (cfg 8 false) false 256 [2]).enc.err ∧ t.enc.err ≠ .noError) :=
  ⟨⟨_, rfl, by decide, by decide⟩, ⟨_, rfl, by decide, by decide⟩⟩

/-- The hypothesis `step s = .next t` of the whole-machine rules. -/
theorem witness_step_completes : ∃ t, step (encAt (cfg 8 false) false 0 [1]) = .next t := ⟨_, rfl⟩

theorem witness_ErrorRegisterAgreesWithFaultPhase :
    let s := encAt (cfg 8 false) false 0 [1]
    (s.enc.live = true → (s.enc.err ≠ .noError ↔ s.enc.phase = .fault)) ∧
      (s.dec.live = true → (s.dec.err ≠ .noError ↔ s.dec.phase = .fault)) ∧ ∃ t, step s = .next t :=
  ⟨by decide, by decide, _, rfl⟩

/-- An encoder operation and a decoder operation that are both enabled, in a loopback. -/
theorem witness_OperationsOfTheTwoUnitsCommute :
    let s := { encAt (cfg 8 false) false 255 [0] with decIn := [1], loopback := true }
    (Instr.encBit false).unit = .enc ∧ (Instr.decFbit true).unit = .dec ∧
      (∃ t, exec (.encBit false) s = .next t) ∧ ∃ u, exec (.decFbit true) s = .next u :=
  ⟨rfl, rfl, ⟨_, rfl⟩, ⟨_, rfl⟩⟩

theorem witness_EveryStepKeepsTheInvariant :
    (encAt (cfg 8 false) false 0 [1]).Inv ∧ ∃ t, step (encAt (cfg 8 false) false 0 [1]) = .next t :=
  ⟨⟨⟨by decide, by decide, by decide, by decide, by decide, by decide, by decide, by decide, by decide, by decide⟩,
    ⟨by decide, by decide, by decide, by decide, by decide, by decide, fun _ _ => ⟨[], rfl⟩,
      fun _ h => absurd h (by decide)⟩⟩, _, rfl⟩

theorem witness_InvariantHoldsAtResetAndPowerOn :
    (255 : Nat) ≤ (cfg 8 false).max ∧ 7 < (cfg 8 false).W ∧ 255 < 2 ^ (cfg 8 false).W := by
  decide

theorem witness_FieldOverflowIsUnreachable :
    (encAt (cfg 8 false) false 0 [1]).Inv ∧
      ∃ t, Host.Core.run Sys2Proof.core 1 (encAt (cfg 8 false) false 0 [1]) = .next t ∧ (State.enc t).live = true :=
  ⟨witness_EveryStepKeepsTheInvariant.1, _, rfl, rfl⟩

/-- The launch premise `encIn = []`, `decIn = []` of the laws over whole programs. -/
theorem witness_launch : State.reset.encIn = [] ∧ State.reset.decIn = [] ∧ State.reset.encCfg = State.reset.encCfg := by
  decide

theorem witness_SplitOfARunInClosedForm :
    (1 : Nat) ≤ 256 ∧ (1 : Nat) = (256 + (cfg 8 false).max - 1) / (cfg 8 false).max - 1 ∧
      (1 : Nat) = 256 - 1 * (cfg 8 false).max ∧ (1 : Nat) ≤ 1 := by
  decide

/-- The premises of the clauses of `ZeroFieldsOnlyAfterSaturationOrFirst`: a zero field first, after saturation, and last. -/
theorem witness_ZeroFieldsOnlyAfterSaturationOrFirst :
    (encodeBits (cfg 2 false) [true])[0]? = some 0 ∧
    (encodeBits (cfg 2 false) [false, false, false, false])[1]? = some 0 ∧
    (encodeBits (cfg 2 false) []).getLast? = some 0 := by
  decide

theorem witness_CanonicalFormIsTheEncodersImage : Canonical (cfg 2 false) [3, 0, 1] := by
  refine ⟨by decide, by decide, by decide, ?_⟩
  intro i h1 h2 _
  have : i = 1 := by simp at h2; omega
  subst this
  decide

theorem witness_FieldOfWBitsDecodesAtOnce :
    let s := decAt (cfg 8 false) true 0 0 []
    s.dec.running = true ∧ s.dec.nb = 0 ∧ s.dec.sh = 0 ∧ s.decIn = [] ∧ 255 ≤ s.decCfg.max ∧
      ser s.decCfg.W 255 = List.replicate 7 true ++ [true] ∧ [true] ≠ ([] : List Bit) := by
  decide

theorem witness_fields_in_range :
    State.reset.decIn = [] ∧ fieldsWf State.reset.decCfg ([255, 0] ++ [45, 5]) = true ∧
      fieldsWf State.reset.decCfg [] = true := by
  decide

/-- Both clauses of `FormatErrorExactlyOnPartialFields` at `W = 8`. -/
theorem witness_FormatErrorExactlyOnPartialFields :
    State.reset.decIn = [] ∧ (List.replicate 8 true).length % State.reset.decCfg.W = 0 ∧
      (List.replicate 7 true).length % State.reset.decCfg.W ≠ 0 := by
  decide

theorem witness_EveryRunEndsAfterItsTokens :
    (let s := encAt (cfg 8 false) true 255 []
     s.enc.running = true ∧ s.encIn = [] ∧ s.enc.cnt ≤ s.encCfg.max) ∧
    (let s := decAt (cfg 8 false) true 127 7 []
     s.dec.running = true ∧ s.decIn = []) := by
  decide

theorem witness_ResultIsThereOnlyAfterASuccessfulRun :
    State.reset.enc.phase ≠ .done ∧ State.reset.dec.phase ≠ .done ∧ State.reset.encIn = [] ∧
      State.reset.decIn = [] ∧ fieldsWf State.reset.decCfg [255, 0, 1] = true := by
  decide

/-- Each unit over with a result while an operation of the other unit, or the other unit's reset, completes. -/
theorem witness_AResultStaysUntilTheUnitsReset :
    (let e := { Enc.init (cfg 1 false) with cnt := 1, phase := .done, fields := [1], out := [1, 2] }
     let s := { decAt (cfg 1 false) false 0 0 [1, 2] with enc := e, loopback := true }
     (∃ t, exec (.decFbit true) s = .next t) ∧ s.encResult = some [true] ∧ Instr.decFbit true ≠ .encReset) ∧
    (let s := { State.reset with dec := { State.reset.dec with phase := .done, out := [0, 2] } }
     (∃ t, exec .encReset s = .next t) ∧ s.decResult = some [false] ∧ Instr.encReset ≠ .decReset) :=
  ⟨⟨⟨_, rfl⟩, by decide, by decide⟩, ⟨⟨_, rfl⟩, by decide, by decide⟩⟩

theorem witness_DrainingEmptiesAUnitsChannelsOnly : State.reset.loopback = false := by decide

theorem witness_RoundTripThroughBothUnits :
    State.reset.loopback = false ∧ State.reset.encCfg = State.reset.decCfg ∧ State.reset.encIn = [] ∧
      State.reset.encOut = [] ∧ State.reset.decIn = [] ∧ State.reset.decOut = [] := by
  decide

/-- The launch of program P3. -/
theorem witness_RoundTripOverALoopback :
    let b := [true, false, false, false, false, false, false, false, false, true]
    let s := { encAt (cfg 3 false) false 0 (runWords b) with loopback := true, encRst := true, decRst := true }
    s.loopback = true ∧ s.encCfg = s.decCfg ∧ s.encRst = true ∧ s.decRst = true ∧ s.encIn = runWords b ∧
      s.decIn = [] ∧ s.decOut = [] := by
  decide

end Sys2Proof.Machine.Tests
end

section
/-! Proofs of the statements of 00_scope: `ser_W` and `deser_W` are inverse (R13), and no step writes the configuration
inputs or the wiring (R9, 20_memory R70, R68). -/

namespace Sys2Proof.Machine

/-! ## Serialising a field (00_scope R13) -/

/-- Shifting a bit in is Mathlib's `Nat.bit`, so the library's facts about binary digits apply. -/
theorem shiftIn_eq_bit (sh : Nat) (d : Bit) : shiftIn sh d = Nat.bit d sh := by
  cases d <;> simp [Nat.bit]

@[simp] theorem deser_nil : deser [] = 0 := rfl

@[simp] theorem deser_concat (s : List Bit) (d : Bit) : deser (s ++ [d]) = shiftIn (deser s) d := by
  simp [deser]

/-- A bit shifted in is the last one serialised: `ser` counts down from the most significant bit, `deser` adds at bit 0,
and this is where the two recursions meet. -/
theorem ser_succ_shiftIn (w sh : Nat) (d : Bit) : ser (w + 1) (shiftIn sh d) = ser w sh ++ [d] := by
  rw [shiftIn_eq_bit]
  induction w with
  | zero => simp [ser]
  | succ n ih => rw [ser, ih, Nat.testBit_bit_succ, ser, List.cons_append]

theorem deser_ser {w v : Nat} (h : v < 2 ^ w) : deser (ser w v) = v := by
  induction w generalizing v with
  | zero => simpa [ser, eq_comm] using h
  | succ n ih =>
    cases v using Nat.bitCasesOn with
    | bit d u =>
      have hu : u < 2 ^ n := Nat.bit_lt_two_pow_succ_iff.mp h
      rw [← shiftIn_eq_bit, ser_succ_shiftIn, deser_concat, ih hu]

theorem ser_deser (b : List Bit) : ser b.length (deser b) = b := by
  induction b using List.reverseRecOn with
  | nil => rfl
  | append_singleton s d ih => rw [List.length_append, List.length_singleton, deser_concat, ser_succ_shiftIn, ih]

/-! ## The configuration inputs and the wiring (00_scope R9, 20_memory R68, R70) -/

/-- `t` has the configuration inputs and the wiring of `s`. -/
def SameConfig (s t : State) : Prop :=
  t.encCfg = s.encCfg ∧ t.decCfg = s.decCfg ∧ t.loopback = s.loopback

theorem SameConfig.trans {s t u : State} (h₁ : SameConfig s t) (h₂ : SameConfig t u) : SameConfig s u := by
  obtain ⟨he₁, hd₁, hl₁⟩ := h₁
  obtain ⟨he₂, hd₂, hl₂⟩ := h₂
  exact ⟨he₂.trans he₁, hd₂.trans hd₁, hl₂.trans hl₁⟩

theorem encBitBody_sameConfig (d : Bit) (s : State) : SameConfig s (encBitBody d s) := by
  obtain ⟨-, -, h⟩ | ⟨-, -, h⟩ | ⟨-, -, h⟩ | ⟨-, -, h⟩ := encBitBody_cases d s <;>
    rw [h] <;> exact ⟨rfl, rfl, rfl⟩

theorem encEndBody_sameConfig (s : State) : SameConfig s (encEndBody s) := by
  obtain ⟨-, h⟩ | ⟨-, h⟩ := encEndBody_cases s <;> rw [h] <;> exact ⟨rfl, rfl, rfl⟩

theorem decFbitBody_sameConfig (d : Bit) (s : State) : SameConfig s (decFbitBody d s) := by
  obtain ⟨-, h⟩ | ⟨-, h⟩ := decFbitBody_cases d s <;> rw [h] <;> exact ⟨rfl, rfl, rfl⟩

theorem decEndBody_sameConfig (s : State) : SameConfig s (decEndBody s) := by
  obtain ⟨-, h⟩ | ⟨-, h⟩ := decEndBody_cases s <;> rw [h] <;> exact ⟨rfl, rfl, rfl⟩

/-- Every operation that completes keeps the configuration; taking a token changes a channel only, so a token operation
inherits this from its body. -/
theorem exec_sameConfig {i : Instr} {s t : State} (h : exec i s = .next t) : SameConfig s t := by
  cases i with
  | encReset => cases h; exact ⟨rfl, rfl, rfl⟩
  | decReset => cases h; exact ⟨rfl, rfl, rfl⟩
  | encBit d =>
    obtain ⟨w, rest, -, -, -, rfl⟩ := exec_encBit_eq_next.mp h
    exact encBitBody_sameConfig d { s with encIn := rest }
  | encEnd =>
    obtain ⟨w, rest, -, -, -, rfl⟩ := exec_encEnd_eq_next.mp h
    exact encEndBody_sameConfig { s with encIn := rest }
  | decFbit d =>
    obtain ⟨w, rest, -, -, -, rfl⟩ := exec_decFbit_eq_next.mp h
    exact decFbitBody_sameConfig d { s with decIn := rest }
  | decEnd =>
    obtain ⟨w, rest, -, -, -, rfl⟩ := exec_decEnd_eq_next.mp h
    exact decEndBody_sameConfig { s with decIn := rest }

theorem consumePulse_sameConfig (i : Instr) (s : State) : SameConfig s (consumePulse i s) := by
  cases i <;> exact ⟨rfl, rfl, rfl⟩

theorem drawTurn_sameConfig (s : State) : SameConfig s (drawTurn s) := ⟨rfl, rfl, rfl⟩

theorem fetch_sameConfig {i : Instr} {s t : State} (h : fetch s = some (i, t)) : SameConfig s t := by
  obtain ⟨-, rfl | rfl⟩ := fetch_eq_some h
  · exact consumePulse_sameConfig i s
  · exact (drawTurn_sameConfig s).trans (consumePulse_sameConfig i (drawTurn s))

theorem step_sameConfig {s t : State} (h : step s = .next t) : SameConfig s t := by
  obtain ⟨i, u, hf, hx⟩ := step_eq_next h
  exact (fetch_sameConfig hf).trans (exec_sameConfig hx)

/-! ## The obligations -/

/-- Settles O18: both directions by induction, on the width and on the sequence from its end, each step by
`ser_succ_shiftIn`. -/
theorem serialisingAFieldIsLossless : Obligations.SerialisingAFieldIsLossless :=
  ⟨fun _ _ h => deser_ser h, ser_deser⟩

/-- Settles O22: the fetch keeps the configuration and so does the operation it answers. -/
theorem noStepChangesTheConfiguration : Obligations.NoStepChangesTheConfiguration :=
  fun _ _ h => step_sameConfig h

end Sys2Proof.Machine
end

section
/-! Proofs of the statements of 10_state: what an operation leaves unchanged (R26), what the encoder emits (R33), the
invariants that every step keeps (R29, R36, R37), and the codes of the status outputs (R28). -/

namespace Sys2Proof.Machine

/-! ## What the operations of one unit leave unchanged (10_state R26) -/

/-- What no operation of the encoder writes: the decoder's registers and output, the reset inputs and the scheduling
fields, and of `ENC_OUT` and `DEC_IN` the one that is not wired as the encoder's output channel. -/
structure EncFrame (s t : State) : Prop where
  dec : t.dec = s.dec
  decOut : t.decOut = s.decOut
  decIn : s.loopback = false → t.decIn = s.decIn
  encOut : s.loopback = true → t.encOut = s.encOut
  encRst : t.encRst = s.encRst
  decRst : t.decRst = s.decRst
  turn : t.turn = s.turn
  tick : t.tick = s.tick

/-- What no operation of the decoder writes: the encoder's registers and channels, the reset inputs and the scheduling
fields. -/
structure DecFrame (s t : State) : Prop where
  enc : t.enc = s.enc
  encIn : t.encIn = s.encIn
  encOut : t.encOut = s.encOut
  encRst : t.encRst = s.encRst
  decRst : t.decRst = s.decRst
  turn : t.turn = s.turn
  tick : t.tick = s.tick

/-- Whatever stands on `ENC_IN`, the frame is the same, so a token operation has the frame of its body. -/
theorem EncFrame.of_take {s t : State} {rest : List Word} (h : EncFrame { s with encIn := rest } t) : EncFrame s t :=
  { h with }

/-- Whatever stands on `DEC_IN`, the frame is the same. -/
theorem DecFrame.of_take {s t : State} {rest : List Word} (h : DecFrame { s with decIn := rest } t) : DecFrame s t :=
  { h with }

/-- Appending to `ENC_OUT` stays inside the encoder's frame, whatever is done to the encoder's registers beside it. -/
theorem appendEncOut_frame (ts : List OutToken) (e : Enc) (s : State) :
    EncFrame s { appendEncOut ts s with enc := e } where
  dec := rfl
  decOut := rfl
  decIn h := by simp [h]
  encOut h := by simp [h]
  encRst := rfl
  decRst := rfl
  turn := rfl
  tick := rfl

/-- Writing the encoder's registers alone stays inside its frame. -/
theorem setEnc_frame (e : Enc) (s : State) : EncFrame s { s with enc := e } :=
  ⟨rfl, rfl, fun _ => rfl, fun _ => rfl, rfl, rfl, rfl, rfl⟩

theorem encBitBody_frame (d : Bit) (s : State) : EncFrame s (encBitBody d s) := by
  obtain ⟨-, -, h⟩ | ⟨-, -, h⟩ | ⟨-, -, h⟩ | ⟨-, -, h⟩ := encBitBody_cases d s <;> rw [h]
  · exact setEnc_frame _ s
  · exact appendEncOut_frame _ _ s
  · exact appendEncOut_frame _ _ s
  · exact setEnc_frame _ s

theorem encEndBody_frame (s : State) : EncFrame s (encEndBody s) := by
  obtain ⟨-, h⟩ | ⟨-, h⟩ := encEndBody_cases s <;> rw [h]
  · exact appendEncOut_frame _ _ s
  · exact setEnc_frame _ s

theorem decFbitBody_frame (d : Bit) (s : State) : DecFrame s (decFbitBody d s) := by
  obtain ⟨-, h⟩ | ⟨-, h⟩ := decFbitBody_cases d s <;> rw [h] <;> exact ⟨rfl, rfl, rfl, rfl, rfl, rfl, rfl⟩

theorem decEndBody_frame (s : State) : DecFrame s (decEndBody s) := by
  obtain ⟨-, h⟩ | ⟨-, h⟩ := decEndBody_cases s <;> rw [h] <;> exact ⟨rfl, rfl, rfl, rfl, rfl, rfl, rfl⟩

theorem exec_encFrame {i : Instr} {s t : State} (hi : i.unit = .enc) (h : exec i s = .next t) : EncFrame s t := by
  cases i with
  | encReset => cases h; exact setEnc_frame _ s
  | encBit d =>
    obtain ⟨w, rest, -, -, -, rfl⟩ := exec_encBit_eq_next.mp h
    exact (encBitBody_frame d _).of_take
  | encEnd =>
    obtain ⟨w, rest, -, -, -, rfl⟩ := exec_encEnd_eq_next.mp h
    exact (encEndBody_frame _).of_take
  | decReset | decFbit | decEnd => cases hi

theorem exec_decFrame {i : Instr} {s t : State} (hi : i.unit = .dec) (h : exec i s = .next t) : DecFrame s t := by
  cases i with
  | encReset | encBit | encEnd => cases hi
  | decReset => cases h; exact ⟨rfl, rfl, rfl, rfl, rfl, rfl, rfl⟩
  | decFbit d =>
    obtain ⟨w, rest, -, -, -, rfl⟩ := exec_decFbit_eq_next.mp h
    exact (decFbitBody_frame d _).of_take
  | decEnd =>
    obtain ⟨w, rest, -, -, -, rfl⟩ := exec_decEnd_eq_next.mp h
    exact (decEndBody_frame _).of_take

/-- Both frames hold what an operation of either unit leaves alone: the configuration, the reset inputs and the
scheduling fields. -/
theorem exec_inputs {i : Instr} {s t : State} (h : exec i s = .next t) :
    t.encCfg = s.encCfg ∧ t.decCfg = s.decCfg ∧ t.loopback = s.loopback ∧ t.encRst = s.encRst ∧ t.decRst = s.decRst ∧
      t.turn = s.turn ∧ t.tick = s.tick := by
  obtain ⟨hce, hcd, hl⟩ := exec_sameConfig h
  cases hu : i.unit with
  | enc =>
    have f := exec_encFrame hu h
    exact ⟨hce, hcd, hl, f.encRst, f.decRst, f.turn, f.tick⟩
  | dec =>
    have f := exec_decFrame hu h
    exact ⟨hce, hcd, hl, f.encRst, f.decRst, f.turn, f.tick⟩

/-! ## What a token operation keeps of its own unit's registers (10_state R26) -/

/-- `ENC.BIT` with a counter in range writes neither `phase` nor `err`; the overflow arm is the exception. -/
theorem encBitBody_kept (d : Bit) (s : State) :
    (encBitBody d s).enc.live = s.enc.live ∧
      (s.enc.cnt ≤ s.encCfg.max →
        (encBitBody d s).enc.phase = s.enc.phase ∧ (encBitBody d s).enc.err = s.enc.err) := by
  obtain ⟨-, -, h⟩ | ⟨-, -, h⟩ | ⟨-, -, h⟩ | ⟨-, hc, h⟩ := encBitBody_cases d s <;> rw [h]
  · exact ⟨rfl, fun _ => ⟨rfl, rfl⟩⟩
  · exact ⟨rfl, fun _ => ⟨rfl, rfl⟩⟩
  · exact ⟨rfl, fun _ => ⟨rfl, rfl⟩⟩
  · exact ⟨rfl, fun hle => absurd hc (Nat.not_lt.mpr hle)⟩

/-- `ENC.END` writes neither the counter nor the polarity, and `err` only when it raises. -/
theorem encEndBody_kept (s : State) :
    (encEndBody s).enc.live = s.enc.live ∧ (encEndBody s).enc.cnt = s.enc.cnt ∧ (encEndBody s).enc.pol = s.enc.pol ∧
      (s.enc.cnt ≤ s.encCfg.max → (encEndBody s).enc.err = s.enc.err) := by
  obtain ⟨-, h⟩ | ⟨hc, h⟩ := encEndBody_cases s <;> rw [h]
  · exact ⟨rfl, rfl, rfl, fun _ => rfl⟩
  · exact ⟨rfl, rfl, rfl, fun hle => absurd hc (Nat.not_lt.mpr hle)⟩

/-- `DEC.FBIT` writes neither `phase` nor `err`. -/
theorem decFbitBody_kept (d : Bit) (s : State) :
    (decFbitBody d s).dec.live = s.dec.live ∧ (decFbitBody d s).dec.phase = s.dec.phase ∧
      (decFbitBody d s).dec.err = s.dec.err := by
  obtain ⟨-, h⟩ | ⟨-, h⟩ := decFbitBody_cases d s <;> rw [h] <;> exact ⟨rfl, rfl, rfl⟩

/-- `DEC.END` writes `phase`, and `err` only inside a field. -/
theorem decEndBody_kept (s : State) :
    (decEndBody s).dec.live = s.dec.live ∧ (decEndBody s).dec.pol = s.dec.pol ∧ (decEndBody s).dec.sh = s.dec.sh ∧
      (decEndBody s).dec.nb = s.dec.nb ∧ (s.dec.nb = 0 → (decEndBody s).dec.err = s.dec.err) := by
  obtain ⟨-, h⟩ | ⟨hn, h⟩ := decEndBody_cases s <;> rw [h]
  · exact ⟨rfl, rfl, rfl, rfl, fun _ => rfl⟩
  · exact ⟨rfl, rfl, rfl, rfl, fun h0 => absurd h0 hn⟩

/-! ## What the encoder emits (10_state R33) -/

/-- The tokens of a field stand on the channel as the field's words. -/
@[simp] theorem map_wordOfOut_fieldTokens (c : Config) (v : Nat) :
    (fieldTokens c v).map wordOfOut = fieldWords c [v] := (fieldWords_singleton c v).symm

/-- The two fields of an escape stand on the channel one after the other. -/
theorem fieldWords_pair (c : Config) (u v : Nat) : fieldWords c [u, v] = fieldWords c [u] ++ fieldWords c [v] :=
  fieldWords_append c [u] [v]

theorem encOutChannel_appendEncOut (ts : List OutToken) (s : State) :
    (appendEncOut ts s).encOutChannel = s.encOutChannel ++ ts.map wordOfOut := by
  cases hl : s.loopback <;> simp [State.encOutChannel, hl]

/-- From `s` to `t` the encoder appended the words of the fields it added to the ghost list, then `CLOSE` exactly in DONE,
to its output channel and to its own record of the run's output. -/
def EmitsItsFields (s t : State) : Prop :=
  ∃ new ws, ws = fieldWords s.encCfg new ++ (if t.enc.phase = .done then [wordOfOut .close] else []) ∧
    t.enc.fields = s.enc.fields ++ new ∧
    t.encOutChannel = s.encOutChannel ++ ws ∧
    t.enc.out = s.enc.out ++ ws

/-- An arm that emits nothing and does not end in DONE. -/
theorem emitsItsFields_of_silent {s : State} {e : Enc} (hp : e.phase ≠ .done) (hf : e.fields = s.enc.fields)
    (ho : e.out = s.enc.out) : EmitsItsFields s { s with enc := e } :=
  ⟨[], [], by simp [hp], by simp [hf], by simp [State.encOutChannel], by simp [ho]⟩

/-- An arm that appends `ts` and records the fields `new`, whose words and `CLOSE` in DONE `ts` are. -/
theorem emitsItsFields_of_append {s : State} {e : Enc} {ts : List OutToken} (new : List Nat)
    (hts : ts.map wordOfOut = fieldWords s.encCfg new ++ (if e.phase = .done then [wordOfOut .close] else []))
    (hf : e.fields = s.enc.fields ++ new) (ho : e.out = s.enc.out ++ ts.map wordOfOut) :
    EmitsItsFields s { appendEncOut ts s with enc := e } :=
  ⟨new, ts.map wordOfOut, hts, hf, encOutChannel_appendEncOut ts s, ho⟩

theorem encBitBody_emitsItsFields (d : Bit) {s : State} (hp : s.enc.phase = .run) :
    EmitsItsFields s (encBitBody d s) := by
  obtain ⟨-, -, h⟩ | ⟨-, -, h⟩ | ⟨-, -, h⟩ | ⟨-, -, h⟩ := encBitBody_cases d s <;> rw [h]
  · exact emitsItsFields_of_silent (by simp [hp]) rfl rfl
  · exact emitsItsFields_of_append [s.encCfg.max, 0] (by simp [hp, fieldWords_pair]) rfl rfl
  · exact emitsItsFields_of_append [s.enc.cnt] (by simp [hp]) rfl rfl
  · exact emitsItsFields_of_silent (by simp) rfl rfl

theorem encEndBody_emitsItsFields (s : State) : EmitsItsFields s (encEndBody s) := by
  obtain ⟨-, h⟩ | ⟨-, h⟩ := encEndBody_cases s <;> rw [h]
  · exact emitsItsFields_of_append [s.enc.cnt] (by simp) rfl rfl
  · exact emitsItsFields_of_silent (by simp) rfl rfl

/-! ## Invariants of one unit's registers, kept by every step -/

theorem Enc.running_iff {e : Enc} : e.running = true ↔ e.live = true ∧ e.phase = .run := by
  simp [Enc.running]

theorem Dec.running_iff {r : Dec} : r.running = true ↔ r.live = true ∧ r.phase = .run := by
  simp [Dec.running]

/-- A fetch takes a pulse and draws a turn; it writes no register. -/
theorem fetch_registers {i : Instr} {s u : State} (h : fetch s = some (i, u)) : u.enc = s.enc ∧ u.dec = s.dec := by
  obtain ⟨-, rfl | rfl⟩ := fetch_eq_some h <;> cases i <;> exact ⟨rfl, rfl⟩

/-- A property of the encoder's registers that `ENC.RESET` establishes and both token operations keep in a running
encoder is kept by every step: the decoder's operations do not touch these registers. -/
theorem step_keeps_enc {P : Config → Enc → Prop} (hreset : ∀ c, P c (Enc.init c))
    (hbit : ∀ d s, s.enc.running = true → P s.encCfg s.enc → P s.encCfg (encBitBody d s).enc)
    (hend : ∀ s, s.enc.running = true → P s.encCfg s.enc → P s.encCfg (encEndBody s).enc)
    {s t : State} (hs : P s.encCfg s.enc) (h : step s = .next t) : P t.encCfg t.enc := by
  obtain ⟨i, u, hf, hx⟩ := step_eq_next h
  obtain ⟨henc, -⟩ := fetch_registers hf
  obtain ⟨hcfg, -, -⟩ := fetch_sameConfig hf
  obtain ⟨hcfg', -, -⟩ := exec_sameConfig hx
  rw [← henc, ← hcfg] at hs
  rw [hcfg']
  cases i with
  | encReset => cases hx; exact hreset _
  | encBit d =>
    obtain ⟨w, rest, -, hr, -, rfl⟩ := exec_encBit_eq_next.mp hx
    exact hbit d { u with encIn := rest } hr hs
  | encEnd =>
    obtain ⟨w, rest, -, hr, -, rfl⟩ := exec_encEnd_eq_next.mp hx
    exact hend { u with encIn := rest } hr hs
  | decReset | decFbit | decEnd => rwa [(exec_decFrame rfl hx).enc]

/-- The same for a property of the decoder's registers. -/
theorem step_keeps_dec {P : Config → Dec → Prop} (hreset : ∀ c, P c (Dec.init c))
    (hbit : ∀ d s, s.dec.running = true → P s.decCfg s.dec → P s.decCfg (decFbitBody d s).dec)
    (hend : ∀ s, s.dec.running = true → P s.decCfg s.dec → P s.decCfg (decEndBody s).dec)
    {s t : State} (hs : P s.decCfg s.dec) (h : step s = .next t) : P t.decCfg t.dec := by
  obtain ⟨i, u, hf, hx⟩ := step_eq_next h
  obtain ⟨-, hdec⟩ := fetch_registers hf
  obtain ⟨-, hcfg, -⟩ := fetch_sameConfig hf
  obtain ⟨-, hcfg', -⟩ := exec_sameConfig hx
  rw [← hdec, ← hcfg] at hs
  rw [hcfg']
  cases i with
  | encReset | encBit | encEnd => rwa [(exec_encFrame rfl hx).dec]
  | decReset => cases hx; exact hreset _
  | decFbit d =>
    obtain ⟨w, rest, -, hr, -, rfl⟩ := exec_decFbit_eq_next.mp hx
    exact hbit d { u with decIn := rest } hr hs
  | decEnd =>
    obtain ⟨w, rest, -, hr, -, rfl⟩ := exec_decEnd_eq_next.mp hx
    exact hend { u with decIn := rest } hr hs

/-! ## The error register and FAULT (10_state R29) -/

/-- Once the unit has been reset, an error is shown exactly in FAULT. -/
def ErrAgrees (live : Bool) (err : Err) (phase : Phase) : Prop :=
  live = true → (err ≠ .noError ↔ phase = .fault)

theorem errAgrees_of_raise (live : Bool) {err : Err} (h : err ≠ .noError) : ErrAgrees live err .fault :=
  fun _ => ⟨fun _ => rfl, fun _ => h⟩

/-- A run that ends without an error keeps the agreement, since no error was shown in RUN. -/
theorem errAgrees_of_close {live : Bool} {err : Err} {phase : Phase} (h : ErrAgrees live err phase) (hl : live = true)
    (hp : phase = .run) : ErrAgrees live err .done := by
  have hiff := h hl
  subst hp
  exact fun _ => by simpa using hiff

theorem encBitBody_errAgrees (d : Bit) {s : State} (hs : ErrAgrees s.enc.live s.enc.err s.enc.phase) :
    ErrAgrees (encBitBody d s).enc.live (encBitBody d s).enc.err (encBitBody d s).enc.phase := by
  obtain ⟨-, -, h⟩ | ⟨-, -, h⟩ | ⟨-, -, h⟩ | ⟨-, -, h⟩ := encBitBody_cases d s <;> rw [h]
  · exact hs
  · exact hs
  · exact hs
  · exact errAgrees_of_raise _ (by simp)

theorem encEndBody_errAgrees {s : State} (hr : s.enc.running = true)
    (hs : ErrAgrees s.enc.live s.enc.err s.enc.phase) :
    ErrAgrees (encEndBody s).enc.live (encEndBody s).enc.err (encEndBody s).enc.phase := by
  obtain ⟨hl, hp⟩ := Enc.running_iff.mp hr
  obtain ⟨-, h⟩ | ⟨-, h⟩ := encEndBody_cases s <;> rw [h]
  · exact errAgrees_of_close hs hl hp
  · exact errAgrees_of_raise _ (by simp)

theorem decFbitBody_errAgrees (d : Bit) {s : State} (hs : ErrAgrees s.dec.live s.dec.err s.dec.phase) :
    ErrAgrees (decFbitBody d s).dec.live (decFbitBody d s).dec.err (decFbitBody d s).dec.phase := by
  obtain ⟨hl, hp, he⟩ := decFbitBody_kept d s
  rwa [hl, hp, he]

theorem decEndBody_errAgrees {s : State} (hr : s.dec.running = true)
    (hs : ErrAgrees s.dec.live s.dec.err s.dec.phase) :
    ErrAgrees (decEndBody s).dec.live (decEndBody s).dec.err (decEndBody s).dec.phase := by
  obtain ⟨hl, hp⟩ := Dec.running_iff.mp hr
  obtain ⟨-, h⟩ | ⟨-, h⟩ := decEndBody_cases s <;> rw [h]
  · exact errAgrees_of_close hs hl hp
  · exact errAgrees_of_raise _ (by simp)

theorem step_keeps_enc_errAgrees {s t : State} (hs : ErrAgrees s.enc.live s.enc.err s.enc.phase)
    (h : step s = .next t) : ErrAgrees t.enc.live t.enc.err t.enc.phase :=
  step_keeps_enc (P := fun _ e => ErrAgrees e.live e.err e.phase) (fun _ _ => by simp [Enc.init])
    (fun d _ _ => encBitBody_errAgrees d) (fun _ => encEndBody_errAgrees) hs h

theorem step_keeps_dec_errAgrees {s t : State} (hs : ErrAgrees s.dec.live s.dec.err s.dec.phase)
    (h : step s = .next t) : ErrAgrees t.dec.live t.dec.err t.dec.phase :=
  step_keeps_dec (P := fun _ r => ErrAgrees r.live r.err r.phase) (fun _ _ => by simp [Dec.init])
    (fun d _ _ => decFbitBody_errAgrees d) (fun _ => decEndBody_errAgrees) hs h

/-! ## The invariant of the encoder (10_state R36; 40_encoder R117, R118) -/

theorem encInv_init (c : Config) : EncInv c (Enc.init c) := by
  constructor <;> simp [Enc.init]

/-- Before its first reset the encoder owes nothing but the counter's width. -/
theorem encInv_of_not_live {c : Config} {e : Enc} (hl : e.live = false) (hc : e.cnt ≤ c.max) : EncInv c e := by
  constructor <;> simp [hl, hc]

/-- Adding `n` to a number flips its parity exactly when `n` is odd. -/
theorem decide_add_odd (m n : Nat) :
    decide ((m + n) % 2 = 1) = (decide (m % 2 = 1) ^^ decide (n % 2 = 1)) := by
  rcases Nat.mod_two_eq_zero_or_one m with hm | hm <;> rcases Nat.mod_two_eq_zero_or_one n with hn | hn <;>
    simp [Nat.add_mod, hm, hn]

/-- Counting a bit below the saturation value: nothing is emitted, and the counter is not 0. -/
theorem EncInv.count {c : Config} {e : Enc} (h : EncInv c e) (hr : e.running = true) (hc : e.cnt ≠ c.max) :
    EncInv c { e with cnt := e.cnt + 1 } := by
  obtain ⟨-, hp⟩ := Enc.running_iff.mp hr
  have hle : e.cnt + 1 ≤ c.max := Nat.lt_of_le_of_ne h.cnt_le hc
  exact { h with
    cnt_le := hle
    zero_run := fun _ _ h0 => absurd h0 (Nat.succ_ne_zero _)
    zero_done := fun _ hd => by simp [hp] at hd }

/-- Emitting fields in RUN (escape and flip): the polarity moves with the number of fields emitted. -/
theorem EncInv.emit {c : Config} {e : Enc} (h : EncInv c e) (hr : e.running = true) {new : List Nat} {p : Bit}
    (hnew : ∀ v ∈ new, v ≤ c.max) (hpol : p = (e.pol ^^ decide (new.length % 2 = 1))) :
    EncInv c { e with cnt := 1, pol := p, fields := e.fields ++ new, out := e.out ++ fieldWords c new } := by
  obtain ⟨hl, hp⟩ := Enc.running_iff.mp hr
  have hdone : e.phase ≠ .done := by simp [hp]
  exact { h with
    cnt_le := one_le_max c
    zero_run := fun _ _ h0 => absurd h0 one_ne_zero
    zero_done := fun _ hd => absurd hd hdone
    fields_le := fun _ v hv => (List.mem_append.mp hv).elim (h.fields_le hl v) (hnew v)
    pol_run := fun _ _ => by
      rw [hpol, h.pol_run hl hp, List.length_append, decide_add_odd, Bool.xor_assoc]
    pol_done := fun _ hd => absurd hd hdone
    out_run := fun _ _ => by rw [h.out_run hl hp, fieldWords_append]
    out_done := fun _ hd => absurd hd hdone }

/-- Ending the run: the last field and `CLOSE` are emitted and the polarity is not toggled. -/
theorem EncInv.close {c : Config} {e : Enc} (h : EncInv c e) (hr : e.running = true) :
    EncInv c { e with
      phase := .done
      fields := e.fields ++ [e.cnt]
      out := e.out ++ (fieldWords c [e.cnt] ++ [wordOfOut .close]) } := by
  obtain ⟨hl, hp⟩ := Enc.running_iff.mp hr
  exact { h with
    no_fault := fun _ hf => nomatch hf
    zero_run := fun _ hd => nomatch hd
    zero_done := fun _ _ (h0 : e.cnt = 0) => by simp [h.zero_run hl hp h0, h0]
    fields_le := fun _ v hv =>
      (List.mem_append.mp hv).elim (h.fields_le hl v) fun hv => List.mem_singleton.mp hv ▸ h.cnt_le
    pol_run := fun _ hd => nomatch hd
    pol_done := fun _ _ => by simpa [Nat.succ_mod_two_eq_zero_iff] using h.pol_run hl hp
    out_run := fun _ hd => nomatch hd
    out_done := fun _ _ => by simp [h.out_run hl hp] }

/-- The overflow arm is dead: the counter is within its width. -/
theorem encBitBody_encInv (d : Bit) {s : State} (hr : s.enc.running = true) (hs : EncInv s.encCfg s.enc) :
    EncInv s.encCfg (encBitBody d s).enc := by
  obtain ⟨-, hc, h⟩ | ⟨-, -, h⟩ | ⟨-, hc, h⟩ | ⟨-, hc, -⟩ := encBitBody_cases d s
  · rw [h]
    exact hs.count hr hc
  · rw [h]
    simpa [fieldWords_pair] using
      hs.emit hr (new := [s.encCfg.max, 0]) (p := s.enc.pol) (by simp) (by simp)
  · rw [h]
    simpa using hs.emit hr (new := [s.enc.cnt]) (p := !s.enc.pol) (by simpa using hc) (by simp)
  · exact absurd hs.cnt_le (Nat.not_le.mpr hc)

theorem encEndBody_encInv {s : State} (hr : s.enc.running = true) (hs : EncInv s.encCfg s.enc) :
    EncInv s.encCfg (encEndBody s).enc := by
  rw [encEndBody_close hs.cnt_le]
  simpa using hs.close hr

/-! ## The invariant of the decoder (10_state R37; 60_exceptions R190, R191) -/

theorem decInv_init (c : Config) : DecInv c (Dec.init c) where
  nb_lt := c.W_pos
  sh_lt := Nat.two_pow_pos _
  sh_field _ := Nat.one_pos
  err_iff _ := by simp [Dec.init]
  err_kind _ := by simp [Dec.init]
  err_inside _ h := nomatch h
  out_open _ _ := ⟨[], rfl⟩
  out_done _ h := nomatch h

/-- Before its first reset the decoder owes nothing but the widths of its registers. -/
theorem decInv_of_not_live {c : Config} {r : Dec} (hl : r.live = false) (hn : r.nb < c.W) (hs : r.sh < 2 ^ c.W) :
    DecInv c r := by
  constructor <;> simp [hl, hn, hs]

theorem DecInv.err_of_running {c : Config} {r : Dec} (h : DecInv c r) (hr : r.running = true) : r.err = .noError := by
  obtain ⟨hl, hp⟩ := Dec.running_iff.mp hr
  simpa [hp] using h.err_iff hl

theorem DecInv.out_of_running {c : Config} {r : Dec} (h : DecInv c r) (hr : r.running = true) :
    ∃ b, r.out = bitWords b := by
  obtain ⟨hl, hp⟩ := Dec.running_iff.mp hr
  exact h.out_open hl (by simp [hp])

/-- `n` bits of one polarity, as words on `DEC_OUT`. -/
theorem bitWords_replicate (n : Nat) (b : Bit) :
    bitWords (List.replicate n b) = List.replicate n (wordOfOut (.bit b)) := by
  simp [bitWords, wordOfOut_bit]

/-- A bit shifted in inside a field: the number of received bits stays below `W`. -/
theorem DecInv.shift {c : Config} {r : Dec} (h : DecInv c r) (hr : r.running = true) (hn : r.nb ≠ c.W - 1) (d : Bit) :
    DecInv c { r with sh := shiftIn r.sh d, nb := r.nb + 1 } := by
  obtain ⟨hl, -⟩ := Dec.running_iff.mp hr
  have hnb := h.nb_lt
  have hsh : shiftIn r.sh d < 2 ^ (r.nb + 1) := shiftIn_lt d (h.sh_field hl)
  exact { h with
    nb_lt := by show r.nb + 1 < c.W; omega
    sh_lt := hsh.trans_le (Nat.pow_le_pow_right Nat.two_pos hnb)
    sh_field := fun _ => hsh
    err_inside := fun _ _ => Nat.succ_ne_zero _ }

/-- A field completed: its bits are appended and the next field starts empty. -/
theorem DecInv.complete {c : Config} {r : Dec} (h : DecInv c r) (hr : r.running = true) (n : Nat) :
    DecInv c { r with
      pol := !r.pol
      sh := 0
      nb := 0
      out := r.out ++ List.replicate n (wordOfOut (.bit r.pol)) } := by
  obtain ⟨-, hp⟩ := Dec.running_iff.mp hr
  obtain ⟨b, hb⟩ := h.out_of_running hr
  exact { h with
    nb_lt := c.W_pos
    sh_lt := Nat.two_pow_pos _
    sh_field := fun _ => Nat.one_pos
    err_inside := fun _ he => by simp [h.err_of_running hr] at he
    out_open := fun _ _ => ⟨b ++ List.replicate n r.pol, by rw [hb, bitWords_append, bitWords_replicate]⟩
    out_done := fun _ hd => by simp [hp] at hd }

/-- The run closed on a field boundary. -/
theorem DecInv.close {c : Config} {r : Dec} (h : DecInv c r) (hr : r.running = true) :
    DecInv c { r with phase := .done, out := r.out ++ [wordOfOut .close] } := by
  obtain ⟨hl, hp⟩ := Dec.running_iff.mp hr
  obtain ⟨b, hb⟩ := h.out_of_running hr
  exact { h with
    err_iff := errAgrees_of_close h.err_iff hl hp
    out_open := fun _ hd => absurd rfl hd
    out_done := fun _ _ => ⟨b, by rw [hb]⟩ }

/-- FormatError raised inside a field. -/
theorem DecInv.raise {c : Config} {r : Dec} (h : DecInv c r) (hr : r.running = true) (hn : r.nb ≠ 0) :
    DecInv c { r with err := .formatError, phase := .fault } :=
  { h with
    err_iff := errAgrees_of_raise _ (by simp)
    err_kind := fun _ he => nomatch he
    err_inside := fun _ _ => hn
    out_open := fun _ _ => h.out_of_running hr
    out_done := fun _ hd => nomatch hd }

theorem decFbitBody_decInv (d : Bit) {s : State} (hr : s.dec.running = true) (hs : DecInv s.decCfg s.dec) :
    DecInv s.decCfg (decFbitBody d s).dec := by
  obtain ⟨hn, h⟩ | ⟨-, h⟩ := decFbitBody_cases d s <;> rw [h]
  · exact hs.shift hr hn d
  · exact hs.complete hr _

theorem decEndBody_decInv {s : State} (hr : s.dec.running = true) (hs : DecInv s.decCfg s.dec) :
    DecInv s.decCfg (decEndBody s).dec := by
  obtain ⟨-, h⟩ | ⟨hn, h⟩ := decEndBody_cases s <;> rw [h]
  · exact hs.close hr
  · exact hs.raise hr hn

/-! ## The codes of the status outputs (10_state R28, R29) -/

theorem Phase.code_ne_reserved (p : Phase) : p.code ≠ 0b11#2 := by cases p <;> decide

theorem Err.code_ne_reserved (e : Err) : e.code ≠ 0b11#2 := by cases e <;> decide

/-! ## The obligations -/

/-- Settles O29: each unit's invariant speaks of its own registers only, is set up by its reset and kept by its token
operations in RUN. -/
theorem everyStepKeepsTheInvariant : Obligations.EveryStepKeepsTheInvariant :=
  fun _ _ hs h =>
    { enc := step_keeps_enc encInv_init (fun d _ => encBitBody_encInv d) (fun _ => encEndBody_encInv) hs.enc h
      dec := step_keeps_dec decInv_init (fun d _ => decFbitBody_decInv d) (fun _ => decEndBody_decInv) hs.dec h }

/-- Settles O21: the other unit and the inputs by the frame of the operation's unit, its own registers by its body. -/
theorem operationsLeaveTheRestUnchanged : Obligations.OperationsLeaveTheRestUnchanged := by
  intro i s t h
  refine ⟨exec_inputs h, ?_⟩
  cases i with
  | encReset => cases h; exact ⟨rfl, rfl, rfl, rfl, rfl⟩
  | encBit d =>
    have f := exec_encFrame rfl h
    obtain ⟨w, rest, -, -, -, rfl⟩ := exec_encBit_eq_next.mp h
    exact ⟨f.dec, f.decOut, f.decIn, f.encOut, encBitBody_kept d { s with encIn := rest }⟩
  | encEnd =>
    have f := exec_encFrame rfl h
    obtain ⟨w, rest, -, -, -, rfl⟩ := exec_encEnd_eq_next.mp h
    exact ⟨f.dec, f.decOut, f.decIn, f.encOut, encEndBody_kept { s with encIn := rest }⟩
  | decReset => cases h; exact ⟨rfl, rfl, rfl, rfl, rfl⟩
  | decFbit d =>
    have f := exec_decFrame rfl h
    obtain ⟨w, rest, -, -, -, rfl⟩ := exec_decFbit_eq_next.mp h
    exact ⟨f.enc, f.encIn, f.encOut, decFbitBody_kept d { s with decIn := rest }⟩
  | decEnd =>
    have f := exec_decFrame rfl h
    obtain ⟨w, rest, -, -, -, rfl⟩ := exec_decEnd_eq_next.mp h
    exact ⟨f.enc, f.encIn, f.encOut, decEndBody_kept { s with decIn := rest }⟩

/-- Settles O24: the agreement is an invariant of each unit's registers. -/
theorem errorRegisterAgreesWithFaultPhase : Obligations.ErrorRegisterAgreesWithFaultPhase :=
  fun _ _ henc hdec h => ⟨step_keeps_enc_errAgrees henc h, step_keeps_dec_errAgrees hdec h⟩

/-- Settles O27: every arm of the two token operations appends the words of the fields it records. -/
theorem encOutCarriesTheEmittedFields : Obligations.EncOutCarriesTheEmittedFields := by
  rintro i s t (rfl | ⟨d, rfl⟩) h
  · obtain ⟨w, rest, -, -, -, rfl⟩ := exec_encEnd_eq_next.mp h
    exact encEndBody_emitsItsFields { s with encIn := rest }
  · obtain ⟨w, rest, -, hr, -, rfl⟩ := exec_encBit_eq_next.mp h
    obtain ⟨-, hp⟩ := Enc.running_iff.mp hr
    exact encBitBody_emitsItsFields d (s := { s with encIn := rest }) hp

/-- Settles O20: the outputs are the registers' codes by definition, and no register value has the reserved code. -/
theorem statusOutputsCarryTheSpecsCodes : Obligations.StatusOutputsCarryTheSpecsCodes :=
  ⟨rfl, rfl, rfl, rfl, rfl, rfl, fun s =>
    ⟨rfl, rfl, rfl, rfl, s.enc.phase.code_ne_reserved, s.enc.err.code_ne_reserved, s.dec.phase.code_ne_reserved,
      s.dec.err.code_ne_reserved⟩⟩

/-- Settles O30: at `State.reset` both units are as their resets leave them; at power-on neither has been reset. -/
theorem invariantHoldsAtResetAndPowerOn : Obligations.InvariantHoldsAtResetAndPowerOn :=
  ⟨⟨encInv_init _, decInv_init _⟩, fun _ _ _ _ _ _ _ _ _ hcnt hnb hsh =>
    ⟨encInv_of_not_live rfl hcnt, decInv_of_not_live rfl hnb hsh⟩⟩

end Sys2Proof.Machine
end

section
/-! Proofs of the statements of 20_memory: the channels (R52), the order of the two units (R68), the result of a run
(R69) and waiting (R72). -/

namespace Sys2Proof.Machine

/-! ## An operation as its effect on its own unit and channels (20_memory R52) -/

/-- The effect of an encoder operation: `n` words taken from the head of `ENC_IN`, the tokens `ts` appended to the output
channel, the registers set to `e`. -/
def encEffect (n : Nat) (ts : List OutToken) (e : Enc) (s : State) : State :=
  { appendEncOut ts s with encIn := s.encIn.drop n, enc := e }

/-- The effect of a decoder operation: `n` words taken from the head of `DEC_IN`, the tokens `ts` appended to `DEC_OUT`,
the registers set to `r`. -/
def decEffect (n : Nat) (ts : List OutToken) (r : Dec) (s : State) : State :=
  { s with decIn := s.decIn.drop n, decOut := s.decOut ++ ts.map wordOfOut, dec := r }

/-- Appending nothing is no change, so writing the encoder's registers is an effect. -/
theorem encEffect_silent (e : Enc) (s : State) : encEffect 0 [] e s = { s with enc := e } := by
  cases hl : s.loopback <;> simp [encEffect, appendEncOut, hl]

theorem decEffect_silent (r : Dec) (s : State) : decEffect 0 [] r s = { s with dec := r } := by
  simp [decEffect]

theorem encBitBody_eq_encEffect (d : Bit) (s : State) : ∃ ts e, encBitBody d s = encEffect 0 ts e s := by
  obtain ⟨-, -, h⟩ | ⟨-, -, h⟩ | ⟨-, -, h⟩ | ⟨-, -, h⟩ := encBitBody_cases d s
  · exact ⟨[], _, h.trans (encEffect_silent _ s).symm⟩
  · exact ⟨_, _, h⟩
  · exact ⟨_, _, h⟩
  · exact ⟨[], _, h.trans (encEffect_silent _ s).symm⟩

theorem encEndBody_eq_encEffect (s : State) : ∃ ts e, encEndBody s = encEffect 0 ts e s := by
  obtain ⟨-, h⟩ | ⟨-, h⟩ := encEndBody_cases s
  · exact ⟨_, _, h⟩
  · exact ⟨[], _, h.trans (encEffect_silent _ s).symm⟩

theorem decFbitBody_shift (d : Bit) {s : State} (hn : s.dec.nb ≠ s.decCfg.W - 1) :
    decFbitBody d s = { s with dec := { s.dec with sh := shiftIn s.dec.sh d, nb := s.dec.nb + 1 } } :=
  ((decFbitBody_cases d s).resolve_right fun h => hn h.1).2

theorem decFbitBody_complete (d : Bit) {s : State} (hn : s.dec.nb = s.decCfg.W - 1) :
    decFbitBody d s = decEffect 0 (List.replicate (shiftIn s.dec.sh d) (.bit s.dec.pol))
      { s.dec with
        pol := !s.dec.pol
        sh := 0
        nb := 0
        out := s.dec.out ++ List.replicate (shiftIn s.dec.sh d) (wordOfOut (.bit s.dec.pol)) } s := by
  obtain ⟨-, h⟩ := (decFbitBody_cases d s).resolve_left fun h => h.1 hn
  simp [h, decEffect]

theorem decEndBody_close {s : State} (hn : s.dec.nb = 0) :
    decEndBody s = decEffect 0 [.close] { s.dec with phase := .done, out := s.dec.out ++ [wordOfOut .close] } s :=
  ((decEndBody_cases s).resolve_right fun h => h.1 hn).2

theorem decEndBody_raise {s : State} (hn : s.dec.nb ≠ 0) : decEndBody s = raise .dec .formatError s :=
  ((decEndBody_cases s).resolve_left fun h => hn h.1).2

theorem decFbitBody_eq_decEffect (d : Bit) (s : State) : ∃ ts r, decFbitBody d s = decEffect 0 ts r s := by
  by_cases hn : s.dec.nb = s.decCfg.W - 1
  · exact ⟨_, _, decFbitBody_complete d hn⟩
  · exact ⟨[], _, (decFbitBody_shift d hn).trans (decEffect_silent _ s).symm⟩

theorem decEndBody_eq_decEffect (s : State) : ∃ ts r, decEndBody s = decEffect 0 ts r s := by
  by_cases hn : s.dec.nb = 0
  · exact ⟨_, _, decEndBody_close hn⟩
  · exact ⟨[], _, (decEndBody_raise hn).trans (decEffect_silent _ s).symm⟩

/-- Every encoder operation that completes is an effect that takes at most the head of `ENC_IN`. -/
theorem exec_eq_encEffect {i : Instr} {s t : State} (hi : i.unit = .enc) (h : exec i s = .next t) :
    ∃ n ts e, n ≤ 1 ∧ t = encEffect n ts e s := by
  cases i with
  | encReset =>
    cases h
    exact ⟨0, [], _, zero_le_one, (encEffect_silent _ s).symm⟩
  | encBit d =>
    obtain ⟨w, rest, hin, -, -, rfl⟩ := exec_encBit_eq_next.mp h
    obtain ⟨ts, e, hb⟩ := encBitBody_eq_encEffect d { s with encIn := rest }
    exact ⟨1, ts, e, le_rfl, by rw [hb]; simp [encEffect, appendEncOut, hin]⟩
  | encEnd =>
    obtain ⟨w, rest, hin, -, -, rfl⟩ := exec_encEnd_eq_next.mp h
    obtain ⟨ts, e, hb⟩ := encEndBody_eq_encEffect { s with encIn := rest }
    exact ⟨1, ts, e, le_rfl, by rw [hb]; simp [encEffect, appendEncOut, hin]⟩
  | decReset | decFbit | decEnd => cases hi

/-- Every decoder operation that completes is an effect that takes at most the head of `DEC_IN`, which is there. -/
theorem exec_eq_decEffect {i : Instr} {s t : State} (hi : i.unit = .dec) (h : exec i s = .next t) :
    ∃ n ts r, n ≤ 1 ∧ n ≤ s.decIn.length ∧ t = decEffect n ts r s := by
  cases i with
  | encReset | encBit | encEnd => cases hi
  | decReset =>
    cases h
    exact ⟨0, [], _, zero_le_one, Nat.zero_le _, (decEffect_silent _ s).symm⟩
  | decFbit d =>
    obtain ⟨w, rest, hin, -, -, rfl⟩ := exec_decFbit_eq_next.mp h
    obtain ⟨ts, r, hb⟩ := decFbitBody_eq_decEffect d { s with decIn := rest }
    exact ⟨1, ts, r, le_rfl, by simp [hin], by rw [hb]; simp [decEffect, hin]⟩
  | decEnd =>
    obtain ⟨w, rest, hin, -, -, rfl⟩ := exec_decEnd_eq_next.mp h
    obtain ⟨ts, r, hb⟩ := decEndBody_eq_decEffect { s with decIn := rest }
    exact ⟨1, ts, r, le_rfl, by simp [hin], by rw [hb]; simp [decEffect, hin]⟩

/-! ## Taking at the head and appending at the tail (20_memory R52) -/

theorem wordOfOut_ne_reserved (t : OutToken) : wordOfOut t ≠ 0b11#2 := by
  obtain ⟨_ | _⟩ | _ := t <;> decide

/-- `new` is `old` with words appended, none of them the reserved word. -/
def Appended (old new : List Word) : Prop := ∃ ws, new = old ++ ws ∧ noReservedWord ws = true

theorem Appended.refl (l : List Word) : Appended l l := ⟨[], by simp [noReservedWord]⟩

theorem noReservedWord_map_wordOfOut (ts : List OutToken) : noReservedWord (ts.map wordOfOut) = true := by
  simp [noReservedWord, wordOfOut_ne_reserved]

theorem Appended.tokens (l : List Word) (ts : List OutToken) : Appended l (l ++ ts.map wordOfOut) :=
  ⟨_, rfl, noReservedWord_map_wordOfOut ts⟩

/-- `new` is `old` without at most its head. -/
def Taken (old new : List Word) : Prop := new = old ∨ ∃ w, old = w :: new

theorem Taken.drop (l : List Word) {n : Nat} (hn : n ≤ 1) : Taken l (l.drop n) := by
  obtain rfl | rfl := Nat.le_one_iff_eq_zero_or_eq_one.mp hn
  · exact .inl rfl
  · cases l with
    | nil => exact .inl rfl
    | cons w rest => exact .inr ⟨w, rfl⟩

/-- The channel discipline of one step from `s` to `t`, as the obligation states it. -/
def ChannelDiscipline (s t : State) : Prop :=
  Appended s.encOut t.encOut ∧ Appended s.decOut t.decOut ∧ Taken s.encIn t.encIn ∧
    ((∃ ws, t.decIn = s.decIn ++ ws ∧ noReservedWord ws = true ∧ (s.loopback = false → ws = [])) ∨
      ∃ w, s.decIn = w :: t.decIn)

theorem encEffect_channelDiscipline {n : Nat} (hn : n ≤ 1) (ts : List OutToken) (e : Enc) (s : State) :
    ChannelDiscipline s (encEffect n ts e s) := by
  have hin : Taken s.encIn (s.encIn.drop n) := .drop _ hn
  cases hl : s.loopback with
  | false =>
    refine ⟨?_, .refl _, hin, .inl ⟨[], ?_, rfl, fun _ => rfl⟩⟩
    · simpa [encEffect, hl] using Appended.tokens s.encOut ts
    · simp [encEffect, hl]
  | true =>
    refine ⟨?_, .refl _, hin, .inl ⟨ts.map wordOfOut, ?_, noReservedWord_map_wordOfOut ts, by simp [hl]⟩⟩
    · simpa [encEffect, hl] using Appended.refl s.encOut
    · simp [encEffect, hl]

theorem decEffect_channelDiscipline {n : Nat} (hn : n ≤ 1) (ts : List OutToken) (r : Dec) (s : State) :
    ChannelDiscipline s (decEffect n ts r s) := by
  refine ⟨.refl _, .tokens _ ts, .inl rfl, ?_⟩
  obtain h | h := Taken.drop s.decIn hn
  · exact .inl ⟨[], by simpa [decEffect] using h, rfl, fun _ => rfl⟩
  · exact .inr h

theorem exec_channelDiscipline {i : Instr} {s t : State} (h : exec i s = .next t) : ChannelDiscipline s t := by
  cases hu : i.unit with
  | enc =>
    obtain ⟨n, ts, e, hn, rfl⟩ := exec_eq_encEffect hu h
    exact encEffect_channelDiscipline hn ts e s
  | dec =>
    obtain ⟨n, ts, r, hn, -, rfl⟩ := exec_eq_decEffect hu h
    exact decEffect_channelDiscipline hn ts r s

/-- A fetch looks at the channels and changes none. -/
theorem fetch_channels {i : Instr} {s u : State} (h : fetch s = some (i, u)) :
    u.encIn = s.encIn ∧ u.encOut = s.encOut ∧ u.decIn = s.decIn ∧ u.decOut = s.decOut := by
  obtain ⟨-, rfl | rfl⟩ := fetch_eq_some h <;> cases i <;> exact ⟨rfl, rfl, rfl, rfl⟩

/-! ## The operations of the two units commute (20_memory R68) -/

/-- What the encoder appends in a loopback stands behind the words the decoder takes, so the two effects commute. -/
theorem encEffect_decEffect {m : Nat} {s : State} (hm : m ≤ s.decIn.length) (n : Nat) (ts us : List OutToken) (e : Enc)
    (r : Dec) : encEffect n ts e (decEffect m us r s) = decEffect m us r (encEffect n ts e s) := by
  cases hl : s.loopback <;> simp [encEffect, decEffect, appendEncOut, hl, List.drop_append_of_le_length hm]

section
variable {m : Nat} {s : State} (us : List OutToken) (r : Dec)

theorem encBitBody_decEffect (hm : m ≤ s.decIn.length) (d : Bit) :
    encBitBody d (decEffect m us r s) = decEffect m us r (encBitBody d s) := by
  obtain ⟨hd, hc, h⟩ | ⟨hd, hc, h⟩ | ⟨hd, hc, h⟩ | ⟨hd, hc, h⟩ := encBitBody_cases d s <;> rw [h]
  · exact encBitBody_count (s := decEffect m us r s) hd hc
  · exact (encBitBody_escape (s := decEffect m us r s) hd hc).trans (encEffect_decEffect hm 0 _ us _ r)
  · exact (encBitBody_flip (s := decEffect m us r s) hd hc).trans (encEffect_decEffect hm 0 _ us _ r)
  · exact encBitBody_overflow (s := decEffect m us r s) hd hc

theorem encEndBody_decEffect (hm : m ≤ s.decIn.length) :
    encEndBody (decEffect m us r s) = decEffect m us r (encEndBody s) := by
  obtain ⟨hc, h⟩ | ⟨hc, h⟩ := encEndBody_cases s <;> rw [h]
  · exact (encEndBody_close (s := decEffect m us r s) hc).trans (encEffect_decEffect hm 0 _ us _ r)
  · exact encEndBody_overflow (s := decEffect m us r s) hc

/-- An encoder operation reads nothing that a decoder operation writes. -/
theorem exec_decEffect {i : Instr} {t : State} (hm : m ≤ s.decIn.length) (hi : i.unit = .enc)
    (h : exec i s = .next t) : exec i (decEffect m us r s) = .next (decEffect m us r t) := by
  cases i with
  | encReset => cases h; rfl
  | encBit d =>
    obtain ⟨w, rest, hin, hr, ht, rfl⟩ := exec_encBit_eq_next.mp h
    exact exec_encBit_eq_next.mpr
      ⟨w, rest, hin, hr, ht, (encBitBody_decEffect (s := { s with encIn := rest }) us r hm d).symm⟩
  | encEnd =>
    obtain ⟨w, rest, hin, hr, ht, rfl⟩ := exec_encEnd_eq_next.mp h
    exact exec_encEnd_eq_next.mpr
      ⟨w, rest, hin, hr, ht, (encEndBody_decEffect (s := { s with encIn := rest }) us r hm).symm⟩
  | decReset | decFbit | decEnd => cases hi

end

section
variable (n : Nat) (ts : List OutToken) (e : Enc)

theorem decFbitBody_encEffect (d : Bit) (s : State) :
    decFbitBody d (encEffect n ts e s) = encEffect n ts e (decFbitBody d s) := by
  by_cases hn : s.dec.nb = s.decCfg.W - 1
  · rw [decFbitBody_complete d hn, encEffect_decEffect (Nat.zero_le _)]
    exact decFbitBody_complete (s := encEffect n ts e s) d hn
  · rw [decFbitBody_shift d hn]
    exact decFbitBody_shift (s := encEffect n ts e s) d hn

theorem decEndBody_encEffect (s : State) :
    decEndBody (encEffect n ts e s) = encEffect n ts e (decEndBody s) := by
  by_cases hn : s.dec.nb = 0
  · rw [decEndBody_close hn, encEffect_decEffect (Nat.zero_le _)]
    exact decEndBody_close (s := encEffect n ts e s) hn
  · rw [decEndBody_raise hn]
    exact decEndBody_raise (s := encEffect n ts e s) hn

/-- An encoder operation leaves the head of `DEC_IN` where it is, in a loopback too. -/
theorem encEffect_decIn_cons {s : State} {w : Word} {rest : List Word} (hin : s.decIn = w :: rest) :
    (encEffect n ts e s).decIn = w :: (encEffect n ts e { s with decIn := rest }).decIn := by
  cases hl : s.loopback <;> simp [encEffect, hl, hin]

/-- A decoder operation reads nothing that an encoder operation writes, but for the head of `DEC_IN`, which stays. -/
theorem exec_encEffect {i : Instr} {s t : State} (hi : i.unit = .dec) (h : exec i s = .next t) :
    exec i (encEffect n ts e s) = .next (encEffect n ts e t) := by
  cases i with
  | encReset | encBit | encEnd => cases hi
  | decReset => cases h; rfl
  | decFbit d =>
    obtain ⟨w, rest, hin, hr, ht, rfl⟩ := exec_decFbit_eq_next.mp h
    exact exec_decFbit_eq_next.mpr
      ⟨w, _, encEffect_decIn_cons n ts e hin, hr, ht, (decFbitBody_encEffect n ts e d { s with decIn := rest }).symm⟩
  | decEnd =>
    obtain ⟨w, rest, hin, hr, ht, rfl⟩ := exec_decEnd_eq_next.mp h
    exact exec_decEnd_eq_next.mpr
      ⟨w, _, encEffect_decIn_cons n ts e hin, hr, ht, (decEndBody_encEffect n ts e { s with decIn := rest }).symm⟩

end

/-! ## Waiting (20_memory R72) -/

theorem selectEnc_eq_none {s : State} (hrst : s.encRst = false) (h : s.enc.running = false ∨ s.encIn = []) :
    selectEnc s = none := by
  rw [selectEnc_eq, hrst]
  obtain h | h := h
  · simp [h]
  · cases s.enc.running <;> simp [h]

theorem selectDec_eq_none {s : State} (hrst : s.decRst = false) (h : s.dec.running = false ∨ s.decIn = []) :
    selectDec s = none := by
  rw [selectDec_eq, hrst]
  obtain h | h := h
  · simp [h]
  · cases s.dec.running <;> simp [h]

theorem step_idle {s : State} (he : selectEnc s = none) (hd : selectDec s = none) : step s = .refused .idle := by
  simp [step, fetch, he, hd]

/-! ## When there is a result (20_memory R69, 60_exceptions R211) -/

theorem encResult_eq_some {s : State} {b : List Bit} :
    s.encResult = some b ↔
      s.enc.live = true ∧ s.enc.phase = .done ∧ s.enc.err = .noError ∧ resultOf s.enc.out = some b := by
  simp [State.encResult, and_assoc]

theorem decResult_eq_some {s : State} {b : List Bit} :
    s.decResult = some b ↔
      s.dec.live = true ∧ s.dec.phase = .done ∧ s.dec.err = .noError ∧ resultOf s.dec.out = some b := by
  simp [State.decResult, and_assoc]

theorem encResult_of_not_done {s : State} (h : s.enc.phase ≠ .done) : s.encResult = none := by
  simp [State.encResult, h]

theorem decResult_of_not_done {s : State} (h : s.dec.phase ≠ .done) : s.decResult = none := by
  simp [State.decResult, h]

/-- A result is read from the unit's own registers only. -/
theorem encResult_congr {s t : State} (h : t.enc = s.enc) : t.encResult = s.encResult := by
  simp [State.encResult, h]

theorem decResult_congr {s t : State} (h : t.dec = s.dec) : t.decResult = s.decResult := by
  simp [State.decResult, h]

theorem not_running_of_encResult {s : State} {b : List Bit} (h : s.encResult = some b) : s.enc.running ≠ true := by
  obtain ⟨-, hp, -, -⟩ := encResult_eq_some.mp h
  simp [Enc.running, hp]

theorem not_running_of_decResult {s : State} {b : List Bit} (h : s.decResult = some b) : s.dec.running ≠ true := by
  obtain ⟨-, hp, -, -⟩ := decResult_eq_some.mp h
  simp [Dec.running, hp]

/-- A unit with a result takes no token, and the other unit does not touch its registers. -/
theorem exec_keeps_encResult {i : Instr} {s t : State} {b : List Bit} (h : exec i s = .next t)
    (hb : s.encResult = some b) (hi : i ≠ .encReset) : t.encResult = some b := by
  cases i with
  | encReset => exact absurd rfl hi
  | encBit d =>
    obtain ⟨-, -, -, hr, -⟩ := exec_encBit_eq_next.mp h
    exact absurd hr (not_running_of_encResult hb)
  | encEnd =>
    obtain ⟨-, -, -, hr, -⟩ := exec_encEnd_eq_next.mp h
    exact absurd hr (not_running_of_encResult hb)
  | decReset | decFbit | decEnd => exact (encResult_congr (exec_decFrame rfl h).enc).trans hb

theorem exec_keeps_decResult {i : Instr} {s t : State} {b : List Bit} (h : exec i s = .next t)
    (hb : s.decResult = some b) (hi : i ≠ .decReset) : t.decResult = some b := by
  cases i with
  | encReset | encBit | encEnd => exact (decResult_congr (exec_encFrame rfl h).dec).trans hb
  | decReset => exact absurd rfl hi
  | decFbit d =>
    obtain ⟨-, -, -, hr, -⟩ := exec_decFbit_eq_next.mp h
    exact absurd hr (not_running_of_decResult hb)
  | decEnd =>
    obtain ⟨-, -, -, hr, -⟩ := exec_decEnd_eq_next.mp h
    exact absurd hr (not_running_of_decResult hb)

/-! ## The fields an encoder run still owes (40_encoder R121) -/

/-- The fields that `b` and `END` make when `n` bits of polarity `p` are counted and not yet emitted. -/
def fieldsFrom (c : Config) (p : Bit) (n : Nat) (b : List Bit) : List Nat := (runsFrom p n b).flatMap (split c)

/-- A run starts as if no bit of polarity `P0` had been counted: this is the zero field of an input that is empty or
begins with `NOT P0`. -/
theorem runs_eq_runsFrom (p : Bit) (b : List Bit) : runs p b = runsFrom p 0 b := by
  cases b with
  | nil => rfl
  | cons d b =>
    by_cases h : d = p <;> simp [runs, runsFrom, maxRuns, h]

theorem encodeBits_eq_fieldsFrom (c : Config) (b : List Bit) : encodeBits c b = fieldsFrom c c.P0 0 b := by
  rw [encodeBits, runs_eq_runsFrom, fieldsFrom]

theorem split_of_le {c : Config} {n : Nat} (hn : n ≤ c.max) : split c n = [n] := by
  rw [split_eq, if_pos hn]

/-- One escape of a run above `MAX` (40_encoder R113). -/
theorem split_max_add (c : Config) {n : Nat} (hn : 1 ≤ n) : split c (c.max + n) = c.max :: 0 :: split c n := by
  rw [split_eq, if_neg (by omega), Nat.add_sub_cancel_left]

theorem fieldsFrom_nil {c : Config} {n : Nat} (p : Bit) (hn : n ≤ c.max) : fieldsFrom c p n [] = [n] := by
  simp [fieldsFrom, runsFrom, split_of_le hn]

theorem fieldsFrom_match (c : Config) (p : Bit) (n : Nat) (b : List Bit) :
    fieldsFrom c p n (p :: b) = fieldsFrom c p (n + 1) b := by
  simp [fieldsFrom, runsFrom]

theorem fieldsFrom_flip {c : Config} {p d : Bit} {n : Nat} (hd : d ≠ p) (hn : n ≤ c.max) (b : List Bit) :
    fieldsFrom c p n (d :: b) = n :: fieldsFrom c d 1 b := by
  simp [fieldsFrom, runsFrom, hd, split_of_le hn]

/-- `MAX` counted bits can be emitted as `MAX, 0` as soon as one more bit of the same run is there. -/
theorem fieldsFrom_max_add (c : Config) (p : Bit) {n : Nat} (hn : 1 ≤ n) (b : List Bit) :
    fieldsFrom c p (c.max + n) b = c.max :: 0 :: fieldsFrom c p n b := by
  induction b generalizing n with
  | nil => simp [fieldsFrom, runsFrom, split_max_add c hn]
  | cons d b ih =>
    by_cases hd : d = p
    · subst hd
      rw [fieldsFrom_match, fieldsFrom_match, Nat.add_assoc, ih (Nat.le_add_left 1 n)]
    · simp [fieldsFrom, runsFrom, hd, split_max_add c hn]

/-- The fields of the whole run when `b` and `END` are still to come: those emitted and those owed. -/
def State.plannedFields (s : State) (b : List Bit) : List Nat :=
  s.enc.fields ++ fieldsFrom s.encCfg s.enc.pol s.enc.cnt b

/-- Taking a bit moves it from the input to the registers and the emitted fields, and changes nothing of the plan. -/
theorem encBitBody_plannedFields {s : State} (hle : s.enc.cnt ≤ s.encCfg.max) (d : Bit) (b : List Bit) :
    (encBitBody d s).plannedFields b = s.plannedFields (d :: b) := by
  obtain ⟨hd, -, h⟩ | ⟨hd, hc, h⟩ | ⟨hd, -, h⟩ | ⟨-, hc, -⟩ := encBitBody_cases d s
  · rw [h]
    simp [State.plannedFields, hd, fieldsFrom_match]
  · rw [h]
    simp [State.plannedFields, hd, hc, fieldsFrom_match, fieldsFrom_max_add _ _ le_rfl]
  · have hp : (!s.enc.pol) = d := (Bool.eq_not_of_ne hd).symm
    rw [h]
    simp [State.plannedFields, hp, fieldsFrom_flip hd hle]
  · exact absurd hle (Nat.not_le.mpr hc)

theorem encEndBody_fields {s : State} (hle : s.enc.cnt ≤ s.encCfg.max) :
    (encEndBody s).enc.fields = s.plannedFields [] := by
  simp [State.plannedFields, encEndBody_close hle, fieldsFrom_nil _ hle]

/-! ## A run of the encoder (30_encoding R94, 40_encoder R121) -/

/-- A running encoder whose input is drained, with its invariant: where a driven run stands between two operations. -/
structure EncTaking (s : State) : Prop where
  running : s.enc.running = true
  drained : s.encIn = []
  inv : EncInv s.encCfg s.enc

theorem encTaking_resetEnc {s : State} (hin : s.encIn = []) : EncTaking (resetEnc s) :=
  ⟨rfl, hin, encInv_init _⟩

/-- On a drained input the word presented is the word taken, and the operation is its body. -/
theorem exec_present_encBit {s : State} (h : EncTaking s) (d : Bit) :
    exec (.encBit d) (s.present (.encBit d)) = .next (encBitBody d s) := by
  have hrest : { s.present (.encBit d) with encIn := [] } = s := by rw [← h.drained]; rfl
  exact exec_encBit_eq_next.mpr
    ⟨wordOf (.bit d), [], by simp [h.drained], h.running, tokenOf_wordOf _, by rw [hrest]⟩

theorem exec_present_encEnd {s : State} (h : EncTaking s) :
    exec .encEnd (s.present .encEnd) = .next (encEndBody s) := by
  have hrest : { s.present .encEnd with encIn := [] } = s := by rw [← h.drained]; rfl
  exact exec_encEnd_eq_next.mpr
    ⟨wordOf .last, [], by simp [h.drained], h.running, tokenOf_wordOf _, by rw [hrest]⟩

theorem EncTaking.encBitBody {s : State} (h : EncTaking s) (d : Bit) : EncTaking (encBitBody d s) where
  running := by
    obtain ⟨hl, hkept⟩ := encBitBody_kept d s
    obtain ⟨hp, -⟩ := hkept h.inv.cnt_le
    rw [Enc.running, hl, hp]
    exact h.running
  drained := by
    obtain ⟨ts, e, hb⟩ := encBitBody_eq_encEffect d s
    rw [hb]
    exact h.drained
  inv := by
    obtain ⟨hcfg, -, -⟩ := encBitBody_sameConfig d s
    rw [hcfg]
    exact encBitBody_encInv d h.running h.inv

/-- `ENC.BITS b` keeps the run's plan. -/
theorem drive_encBits {s : State} (h : EncTaking s) (b : List Bit) :
    ∃ t, drive (encBits b) s = .next t ∧ EncTaking t ∧ SameConfig s t ∧
      ∀ b', t.plannedFields b' = s.plannedFields (b ++ b') := by
  induction b generalizing s with
  | nil => exact ⟨s, rfl, h, ⟨rfl, rfl, rfl⟩, fun _ => rfl⟩
  | cons d b ih =>
    obtain ⟨t, hdrive, ht, hcfg, hplan⟩ := ih (h.encBitBody d)
    refine ⟨t, (drive_cons_of_next (exec_present_encBit h d)).trans hdrive, ht,
      (encBitBody_sameConfig d s).trans hcfg, fun b' => ?_⟩
    rw [hplan, encBitBody_plannedFields h.inv.cnt_le, List.cons_append]

/-- `ENC.STREAM b` ends in DONE with the fields `encode_W_P0(b)` emitted and the invariant kept. -/
theorem drive_encStream {s : State} (hin : s.encIn = []) (b : List Bit) :
    ∃ t, drive (encStream b) s = .next t ∧ SameConfig s t ∧ EncInv t.encCfg t.enc ∧ t.enc.live = true ∧
      t.enc.phase = .done ∧ t.enc.fields = encodeBits s.encCfg b := by
  obtain ⟨t, hdrive, ht, hcfg, hplan⟩ := drive_encBits (encTaking_resetEnc hin) b
  have hle := ht.inv.cnt_le
  obtain ⟨hencCfg, -, -⟩ := encEndBody_sameConfig t
  obtain ⟨hlive, -⟩ := encEndBody_kept t
  refine ⟨encEndBody t, ?_, hcfg.trans (encEndBody_sameConfig t), ?_, ?_, ?_, ?_⟩
  · refine drive_append_eq_next.mpr ⟨t, ?_, drive_cons_of_next (exec_present_encEnd ht)⟩
    exact (drive_cons_of_next (exec_encReset s)).trans hdrive
  · rw [hencCfg]
    exact encEndBody_encInv ht.running ht.inv
  · rw [hlive]
    exact (Enc.running_iff.mp ht.running).1
  · rw [encEndBody_close hle]
  · rw [encEndBody_fields hle, hplan, List.append_nil, encodeBits_eq_fieldsFrom]
    rfl

/-- In DONE the invariant makes the serialised fields of the run its result. -/
theorem EncInv.encResult {s : State} (h : EncInv s.encCfg s.enc) (hl : s.enc.live = true) (hp : s.enc.phase = .done) :
    s.encResult = some (serFields s.encCfg s.enc.fields) :=
  encResult_eq_some.mpr ⟨hl, hp, h.no_err hl, by rw [h.out_done hl hp]; exact resultOf_closed _ []⟩

/-! ## A run of the decoder (30_encoding R94, 41_decoder R150) -/

/-- A running decoder whose input is drained and which shows no error: where a driven run stands between two
operations. -/
structure DecTaking (s : State) : Prop where
  running : s.dec.running = true
  drained : s.decIn = []
  no_err : s.dec.err = .noError

theorem exec_present_decFbit {s : State} (h : DecTaking s) (d : Bit) :
    exec (.decFbit d) (s.present (.decFbit d)) = .next (decFbitBody d s) := by
  have hrest : { s.present (.decFbit d) with decIn := [] } = s := by rw [← h.drained]; rfl
  exact exec_decFbit_eq_next.mpr
    ⟨wordOf (.bit d), [], by simp [h.drained], h.running, tokenOf_wordOf _, by rw [hrest]⟩

theorem exec_present_decEnd {s : State} (h : DecTaking s) :
    exec .decEnd (s.present .decEnd) = .next (decEndBody s) := by
  have hrest : { s.present .decEnd with decIn := [] } = s := by rw [← h.drained]; rfl
  exact exec_decEnd_eq_next.mpr
    ⟨wordOf .last, [], by simp [h.drained], h.running, tokenOf_wordOf _, by rw [hrest]⟩

/-- The state after a field of value `v` was completed: `v` bits of the field's polarity appended, the polarity toggled,
the next field empty (41_decoder R142). -/
def completeField (v : Nat) (s : State) : State :=
  decEffect 0 (List.replicate v (.bit s.dec.pol))
    { s.dec with
      pol := !s.dec.pol
      sh := 0
      nb := 0
      out := s.dec.out ++ List.replicate v (wordOfOut (.bit s.dec.pol)) } s

/-- The bits that fill up a field complete it, with the number they make behind those already received. -/
theorem drive_decBits_completeField {s : State} (h : DecTaking s) {b : List Bit} (hb : b ≠ [])
    (hW : s.dec.nb + b.length = s.decCfg.W) :
    drive (decBits b) s = .next (completeField (b.foldl shiftIn s.dec.sh) s) := by
  induction b generalizing s with
  | nil => exact absurd rfl hb
  | cons d b ih =>
    rw [List.length_cons] at hW
    refine (drive_cons_of_next (exec_present_decFbit h d)).trans ?_
    by_cases hlast : b = []
    · subst hlast
      rw [decFbitBody_complete d (by simpa using Nat.eq_sub_of_add_eq hW)]
      rfl
    · have hpos := List.length_pos_of_ne_nil hlast
      rw [decFbitBody_shift d (by omega)]
      exact ih ⟨h.running, h.drained, h.no_err⟩ hlast (by rw [← hW, Nat.add_assoc, Nat.add_comm 1])

/-- A running decoder between two fields. -/
structure DecBoundary (s : State) : Prop extends DecTaking s where
  nb_zero : s.dec.nb = 0
  sh_zero : s.dec.sh = 0

theorem decBoundary_resetDec {s : State} (hin : s.decIn = []) : DecBoundary (resetDec s) :=
  ⟨⟨rfl, hin, rfl⟩, rfl, rfl⟩

theorem DecBoundary.completeField {s : State} (h : DecBoundary s) (v : Nat) : DecBoundary (completeField v s) :=
  ⟨⟨h.running, h.drained, h.no_err⟩, rfl, rfl⟩

/-- `DEC.FIELD v` completes a field of value `v` (41_decoder R144). -/
theorem drive_decField {s : State} (h : DecBoundary s) {v : Nat} (hv : v ≤ s.decCfg.max) :
    drive (decField s.decCfg v) s = .next (completeField v s) := by
  have hlen : (ser s.decCfg.W v).length = s.decCfg.W := ser_length _ _
  have hne : ser s.decCfg.W v ≠ [] := List.ne_nil_of_length_pos (hlen.symm ▸ s.decCfg.W_pos)
  have hval : (ser s.decCfg.W v).foldl shiftIn s.dec.sh = v := by
    rw [h.sh_zero]
    exact deser_ser ((le_max_iff _ v).mp hv)
  rw [decField, drive_decBits_completeField h.toDecTaking hne (by rw [h.nb_zero, hlen, Nat.zero_add]), hval]

/-- `DEC.FIELDS f` appends the bits that `f` decodes to, field after field with alternating polarity. -/
theorem drive_decFieldsOps {s : State} (h : DecBoundary s) {f : List Nat} (hf : fieldsWf s.decCfg f = true) :
    ∃ t, drive (decFieldsOps s.decCfg f) s = .next t ∧ DecBoundary t ∧
      t.dec.out = s.dec.out ++ bitWords (decodeFields s.dec.pol f) ∧
      t.decOut = s.decOut ++ bitWords (decodeFields s.dec.pol f) := by
  induction f generalizing s with
  | nil => exact ⟨s, rfl, h, by simp [decodeFields, bitWords], by simp [decodeFields, bitWords]⟩
  | cons v f ih =>
    obtain ⟨hv, hf⟩ : v ≤ s.decCfg.max ∧ fieldsWf s.decCfg f = true := by simpa [fieldsWf, fieldWf] using hf
    obtain ⟨t, hdrive, ht, hout, hdecOut⟩ := ih (h.completeField v) hf
    refine ⟨t, drive_append_eq_next.mpr ⟨_, drive_decField h hv, hdrive⟩, ht, ?_, ?_⟩
    · simp [hout, completeField, decEffect, decodeFields, bitWords_replicate]
    · simp [hdecOut, completeField, decEffect, decodeFields, bitWords_replicate]

/-- `DEC.STREAM f` ends in DONE without an error, with what `f` decodes to and `CLOSE` as the run's output
and appended to `DEC_OUT`. -/
theorem drive_decStream {s : State} (hin : s.decIn = []) {f : List Nat} (hf : fieldsWf s.decCfg f = true) :
    ∃ t, drive (decStream s.decCfg f) s = .next t ∧ t.dec.live = true ∧ t.dec.phase = .done ∧ t.dec.err = .noError ∧
      t.dec.out = bitWords (decodeFields s.decCfg.P0 f) ++ [wordOfOut .close] ∧
      t.decOut = s.decOut ++ (bitWords (decodeFields s.decCfg.P0 f) ++ [wordOfOut .close]) := by
  obtain ⟨t, hdrive, ht, hout, hdecOut⟩ := drive_decFieldsOps (decBoundary_resetDec hin) hf
  have hclose := decEndBody_close ht.nb_zero
  refine ⟨decEndBody t, ?_, ?_, ?_, ?_, ?_, ?_⟩
  · refine drive_append_eq_next.mpr ⟨t, ?_, drive_cons_of_next (exec_present_decEnd ht.toDecTaking)⟩
    exact (drive_cons_of_next (exec_decReset s)).trans hdrive
  · rw [hclose]
    exact (Dec.running_iff.mp ht.running).1
  · rw [hclose]
    rfl
  · rw [hclose]
    exact ht.no_err
  · simp [hclose, decEffect, hout, Dec.init]
  · simp [hclose, decEffect, hdecOut, Dec.init]

/-! ## The obligations -/

/-- Settles O26: the fetch leaves the channels alone and every operation is an effect on its own unit's channels. -/
theorem channelsAreTakenAtHeadAndAppendedAtTail : Obligations.ChannelsAreTakenAtHeadAndAppendedAtTail := by
  intro s t h
  obtain ⟨i, u, hf, hx⟩ := step_eq_next h
  obtain ⟨hei, heo, hdi, hdo⟩ := fetch_channels hf
  obtain ⟨-, -, hl⟩ := fetch_sameConfig hf
  rw [← hei, ← heo, ← hdi, ← hdo, ← hl]
  exact exec_channelDiscipline hx

/-- Settles O28: each operation, run after the other, has the effect it has alone, and the effects commute. -/
theorem operationsOfTheTwoUnitsCommute : Obligations.OperationsOfTheTwoUnitsCommute := by
  intro i j s t u hi hj ht hu
  obtain ⟨n, ts, e, -, rfl⟩ := exec_eq_encEffect hi ht
  obtain ⟨m, us, r, -, hm, rfl⟩ := exec_eq_decEffect hj hu
  refine ⟨encEffect n ts e (decEffect m us r s), exec_encEffect n ts e hj hu, ?_⟩
  rw [encEffect_decEffect hm]
  exact exec_decEffect us r hm hi ht

/-- Settles O53: a unit with a result is in DONE, where only its RESET is enabled. -/
theorem aResultStaysUntilTheUnitsReset : Obligations.AResultStaysUntilTheUnitsReset :=
  ⟨fun _ _ _ _ => exec_keeps_encResult, fun _ _ _ _ => exec_keeps_decResult⟩

/-- Settles O13: neither unit selects an operation. -/
theorem nothingEnabledIsNoStep : Obligations.NothingEnabledIsNoStep :=
  fun _ her hdr he hd => step_idle (selectEnc_eq_none her he) (selectDec_eq_none hdr hd)

/-- Settles O52: a stream ends in DONE, and the result is read from the run's own output, which is the serialised fields
of the encoder and the decoded bits of the decoder, each before its `CLOSE`. -/
theorem resultIsThereOnlyAfterASuccessfulRun : Obligations.ResultIsThereOnlyAfterASuccessfulRun := by
  refine ⟨fun _ => encResult_of_not_done, fun _ => decResult_of_not_done, fun s b hin => ?_, fun s f hin hf => ?_⟩
  · obtain ⟨t, hdrive, ⟨hcfg, -, -⟩, hinv, hl, hp, hfields⟩ := drive_encStream hin b
    refine ⟨t, hdrive, by simp [State.runOver, hl, hp], ?_⟩
    rw [hinv.encResult hl hp, hcfg, hfields]
  · obtain ⟨t, hdrive, hl, hp, herr, hout, -⟩ := drive_decStream hin hf
    refine ⟨t, hdrive, by simp [State.runOver, hl, hp], decResult_eq_some.mpr ⟨hl, hp, herr, ?_⟩⟩
    rw [hout]
    exact resultOf_closed _ []

end Sys2Proof.Machine
end

section
/-! Proofs of the statements of 30_encoding: the coding of operations and tokens (R81, R82, R84, R86, R88), which operation
a step runs (R80, R82, R86), the canonical form (R92) and the size of the encoder's output (R97). -/

namespace Sys2Proof.Machine

/-! ## The words of the operations (30_encoding R81, R82, R86, R88) -/

/-- The token port of a unit (30_encoding R81). -/
def tokenPort : UnitId → Port
  | .enc => .encIn
  | .dec => .decIn

theorem encode_tokenInstr (u : UnitId) (t : Token) :
    encode (tokenInstr u t) = (tokenPort u, (wordOf t).toNat) := by
  cases u <;> cases t <;> rfl

theorem tokenInstr_last (u : UnitId) : tokenInstr u .last = .encEnd ∨ tokenInstr u .last = .decEnd := by
  cases u
  · exact .inl rfl
  · exact .inr rfl

/-- Writing the token that a word reads as gives the word back, but for the reserved word, which is written as `END`. -/
theorem wordOf_tokenOf (w : Word) : wordOf (tokenOf w) = w ∨ (tokenOf w = .last ∧ w = 0b11#2) := by
  revert w
  decide

theorem decodeReset_eq_ok {i j : Instr} {w : Nat} (h : decodeReset i w = .ok j) : w = 1 ∧ j = i := by
  unfold decodeReset at h
  split at h
  · cases h
  · split at h
    · cases h
      exact ⟨‹w = 1›, rfl⟩
    · cases h

/-- A number that a token port decodes is a word, and the operation is that of the word's token. -/
theorem decodeToken_eq_ok {u : UnitId} {i : Instr} {w : Nat} (h : decodeToken u w = .ok i) :
    ∃ v : Word, w = v.toNat ∧ i = tokenInstr u (tokenOf v) := by
  unfold decodeToken at h
  split at h
  · cases h
    exact ⟨BitVec.ofNat 2 w, (Nat.mod_eq_of_lt ‹w < 4›).symm, rfl⟩
  · cases h

theorem decode_encode (i : Instr) : decode (encode i).1 (encode i).2 = .ok i := by
  cases i with
  | encReset => exact decode_encRst_one
  | encBit d => exact (decode_encIn _).trans (by rw [tokenOf_wordOf]; rfl)
  | encEnd => exact (decode_encIn _).trans (by rw [tokenOf_wordOf]; rfl)
  | decReset => exact decode_decRst_one
  | decFbit d => exact (decode_decIn _).trans (by rw [tokenOf_wordOf]; rfl)
  | decEnd => exact (decode_decIn _).trans (by rw [tokenOf_wordOf]; rfl)

/-- On a token port the reserved word is the one word that is not written back. -/
theorem encode_of_decodeToken {u : UnitId} {i : Instr} {w : Nat} (h : decodeToken u w = .ok i) :
    (encode i).1 = tokenPort u ∧ ((encode i).2 = w ∨ ((i = .encEnd ∨ i = .decEnd) ∧ w = 0b11)) := by
  obtain ⟨v, rfl, rfl⟩ := decodeToken_eq_ok h
  rw [encode_tokenInstr]
  obtain hv | ⟨hlast, rfl⟩ := wordOf_tokenOf v
  · exact ⟨rfl, .inl (congrArg BitVec.toNat hv)⟩
  · exact ⟨rfl, .inr ⟨by rw [hlast]; exact tokenInstr_last u, rfl⟩⟩

theorem encode_of_decode {p : Port} {w : Nat} {i : Instr} (h : decode p w = .ok i) :
    (encode i).1 = p ∧ ((encode i).2 = w ∨ ((i = .encEnd ∨ i = .decEnd) ∧ w = 0b11)) := by
  cases p with
  | encRst | decRst =>
    obtain ⟨rfl, rfl⟩ := decodeReset_eq_ok h
    exact ⟨rfl, .inl rfl⟩
  | encIn => exact encode_of_decodeToken (u := .enc) h
  | decIn => exact encode_of_decodeToken (u := .dec) h

/-! ## A token operation needs its token (30_encoding R80) -/

theorem takeEnc_eq_none {tok : Token} {s : State} (h : (s.encIn.head?).map tokenOf ≠ some tok) :
    takeEnc tok s = none := by
  refine Option.eq_none_iff_forall_ne_some.mpr fun t ht => h ?_
  obtain ⟨w, rest, hin, -, hw, -⟩ := takeEnc_eq_some.mp ht
  simp [hin, hw]

theorem takeDec_eq_none {tok : Token} {s : State} (h : (s.decIn.head?).map tokenOf ≠ some tok) :
    takeDec tok s = none := by
  refine Option.eq_none_iff_forall_ne_some.mpr fun t ht => h ?_
  obtain ⟨w, rest, hin, -, hw, -⟩ := takeDec_eq_some.mp ht
  simp [hin, hw]

/-! ## The operation a step runs (30_encoding R82, R86; 20_memory R68) -/

theorem selectEnc_of_encRst {s : State} (h : s.encRst = true) : selectEnc s = some .encReset := by
  simp [selectEnc_eq, h]

theorem selectDec_of_decRst {s : State} (h : s.decRst = true) : selectDec s = some .decReset := by
  simp [selectDec_eq, h]

theorem selectEnc_of_head {s : State} {w : Word} {rest : List Word} (hrst : s.encRst = false)
    (hrun : s.enc.running = true) (hin : s.encIn = w :: rest) : selectEnc s = some (tokenInstr .enc (tokenOf w)) := by
  simp [selectEnc_eq, hrst, hrun, hin]

theorem selectDec_of_head {s : State} {w : Word} {rest : List Word} (hrst : s.decRst = false)
    (hrun : s.dec.running = true) (hin : s.decIn = w :: rest) : selectDec s = some (tokenInstr .dec (tokenOf w)) := by
  simp [selectDec_eq, hrst, hrun, hin]

/-- A token operation takes no reset pulse. -/
@[simp] theorem consumePulse_tokenInstr (u : UnitId) (t : Token) (s : State) :
    consumePulse (tokenInstr u t) s = s := by
  cases u <;> cases t <;> rfl

section
variable {s : State} {i j : Instr}

theorem step_of_enc_alone (he : selectEnc s = some i) (hd : selectDec s = none) :
    step s = exec i (consumePulse i s) := by
  simp [step, fetch, he, hd]

theorem step_of_dec_alone (he : selectEnc s = none) (hd : selectDec s = some j) :
    step s = exec j (consumePulse j s) := by
  simp [step, fetch, he, hd]

theorem step_of_enc_turn (he : selectEnc s = some i) (hd : selectDec s = some j) (ht : s.turn = .enc) :
    step s = exec i (consumePulse i (drawTurn s)) := by
  simp [step, fetch, he, hd, ht]

theorem step_of_dec_turn (he : selectEnc s = some i) (hd : selectDec s = some j) (ht : s.turn = .dec) :
    step s = exec j (consumePulse j (drawTurn s)) := by
  simp [step, fetch, he, hd, ht]

end

/-! ## The canonical form, field by field (30_encoding R92) -/

theorem canonical_singleton (c : Config) (n : Nat) : Canonical c [n] ↔ n ≤ c.max := by
  simp only [Canonical, List.length_singleton, List.mem_singleton, forall_eq]
  constructor
  · rintro ⟨-, hn, -⟩
    exact hn
  · exact fun hn => ⟨le_rfl, hn, .inl trivial, fun i h0 h1 => by omega⟩

theorem not_canonical_nil (c : Config) : ¬ Canonical c [] := fun ⟨h, _⟩ => absurd h (by decide)

/-- Condition (b) of R92 for a field list with one more field in front: the old list's condition, and that of its
first field, which now is neither the first nor, with more fields behind it, the last. -/
theorem zero_after_max_cons (m u v : Nat) (g : List Nat) :
    (∀ i, 0 < i → i < g.length + 1 → (u :: v :: g)[i]? = some 0 → (u :: v :: g)[i - 1]? = some m) ↔
      (g ≠ [] → v = 0 → u = m) ∧
        ∀ i, 0 < i → i < g.length → (v :: g)[i]? = some 0 → (v :: g)[i - 1]? = some m := by
  constructor
  · refine fun h => ⟨fun hg hv => ?_, fun i h0 hi hz => ?_⟩
    · simpa [hv] using h 1 Nat.one_pos (Nat.lt_add_of_pos_left (List.length_pos_of_ne_nil hg))
    · obtain ⟨k, rfl⟩ := Nat.exists_eq_add_one.mpr h0
      exact h (k + 2) (Nat.succ_pos _) (Nat.succ_lt_succ hi) hz
  · rintro ⟨hfirst, hrest⟩ (_ | _ | k) h0 hi hz
    · exact absurd h0 (lt_irrefl 0)
    · have hg : g ≠ [] := List.ne_nil_of_length_pos (by omega)
      simpa using hfirst hg (by simpa using hz)
    · exact hrest (k + 1) (Nat.succ_pos k) (Nat.lt_of_succ_lt_succ hi) hz

/-- A field in front of a canonical list: it is in range, and a zero field directly behind it is an escape's, so it
follows a field `MAX` and is not the last. -/
theorem canonical_cons_cons (c : Config) (u v : Nat) (g : List Nat) :
    Canonical c (u :: v :: g) ↔ u ≤ c.max ∧ (v = 0 → u = c.max ∧ g ≠ []) ∧ Canonical c (v :: g) := by
  have hb := zero_after_max_cons c.max u v g
  simp only [Canonical, List.length_cons, Nat.add_sub_cancel, List.forall_mem_cons] at hb ⊢
  rw [hb]
  cases g with
  | nil => simp [and_comm, and_left_comm]
  | cons w g => simp [and_assoc, and_left_comm]

/-- A field may stand in front of a canonical list that does not begin with a zero field. -/
theorem Canonical.cons {c : Config} {u : Nat} {f : List Nat} (hf : Canonical c f) (h0 : f.head? ≠ some 0)
    (hu : u ≤ c.max) : Canonical c (u :: f) := by
  cases f with
  | nil => exact absurd hf (not_canonical_nil c)
  | cons v g =>
    have hv : v ≠ 0 := by simpa using h0
    exact (canonical_cons_cons c u v g).mpr ⟨hu, fun h => absurd h hv, hf⟩

/-- And so may an escape (40_encoder R113). -/
theorem Canonical.escape {c : Config} {f : List Nat} (hf : Canonical c f) (h0 : f.head? ≠ some 0) :
    Canonical c (c.max :: 0 :: f) := by
  refine (canonical_cons_cons c _ _ _).mpr ⟨le_rfl, fun _ => ⟨rfl, ?_⟩, hf.cons h0 (Nat.zero_le _)⟩
  rintro rfl
  exact not_canonical_nil c hf

/-! ## Encoder output is canonical -/

/-- A run counted in `0 .. MAX` is encoded canonically, and once a bit is counted the next field is not 0. -/
theorem fieldsFrom_canonical {c : Config} {p : Bit} {n : Nat} (hn : n ≤ c.max) (b : List Bit) :
    Canonical c (fieldsFrom c p n b) ∧ (1 ≤ n → (fieldsFrom c p n b).head? ≠ some 0) := by
  have hmax := one_le_max c
  induction b generalizing p n with
  | nil =>
    rw [fieldsFrom_nil p hn]
    exact ⟨(canonical_singleton c n).mpr hn, fun h => by simpa using Nat.ne_of_gt h⟩
  | cons d b ih =>
    have hnew (q : Bit) : Canonical c (fieldsFrom c q 1 b) ∧ (fieldsFrom c q 1 b).head? ≠ some 0 :=
      (ih hmax).imp_right fun h => h le_rfl
    by_cases hd : d = p
    · subst hd
      rw [fieldsFrom_match]
      obtain hlt | rfl := Nat.lt_or_eq_of_le hn
      · exact (ih hlt).imp_right fun h _ => h (Nat.le_add_left 1 n)
      · obtain ⟨hcan, h0⟩ := hnew d
        rw [fieldsFrom_max_add c d le_rfl]
        exact ⟨hcan.escape h0, fun _ => by simpa using Nat.ne_of_gt hmax⟩
    · obtain ⟨hcan, h0⟩ := hnew d
      rw [fieldsFrom_flip hd hn]
      exact ⟨hcan.cons h0 hn, fun h => by simpa using Nat.ne_of_gt h⟩

/-! ## A canonical list is the encoding of what it decodes to -/

theorem fieldsFrom_replicate_append (c : Config) (p : Bit) (n k : Nat) (b : List Bit) :
    fieldsFrom c p n (List.replicate k p ++ b) = fieldsFrom c p (n + k) b := by
  induction k generalizing n with
  | zero => rfl
  | succ k ih => rw [List.replicate_succ, List.cons_append, fieldsFrom_match, ih, Nat.add_right_comm, Nat.add_assoc]

theorem decodeFields_succ (p : Bit) (k : Nat) (g : List Nat) :
    decodeFields p ((k + 1) :: g) = p :: decodeFields p (k :: g) := rfl

theorem decodeFields_zero (p : Bit) (g : List Nat) : decodeFields p (0 :: g) = decodeFields (!p) g := rfl

/-- With `u` bits of polarity `p` counted, what the rest of a canonical list decodes to makes the encoder emit `u` and go
on as if the rest stood alone: a rest that decodes to a bit `NOT p` first flips, and behind a zero field the bit is `p`,
where the saturated counter escapes. -/
theorem fieldsFrom_emits_first {c : Config} {u v : Nat} {g : List Nat} (h : Canonical c (u :: v :: g)) (p : Bit) :
    fieldsFrom c p u (decodeFields (!p) (v :: g)) = u :: fieldsFrom c (!p) 0 (decodeFields (!p) (v :: g)) := by
  obtain ⟨hu, hesc, hvg⟩ := (canonical_cons_cons c u v g).mp h
  cases v with
  | succ k =>
    rw [decodeFields_succ, fieldsFrom_flip (by simp) hu, fieldsFrom_match]
  | zero =>
    obtain ⟨rfl, hg⟩ := hesc rfl
    obtain ⟨w, g, rfl⟩ := List.exists_cons_of_ne_nil hg
    obtain ⟨-, hw, -⟩ := (canonical_cons_cons c 0 w g).mp hvg
    have hw0 : w ≠ 0 := fun h0 => absurd (hw h0).1 (Nat.ne_of_lt (one_le_max c))
    obtain ⟨k, rfl⟩ := Nat.exists_eq_succ_of_ne_zero hw0
    rw [decodeFields_zero, Bool.not_not, decodeFields_succ, fieldsFrom_match, fieldsFrom_max_add c p le_rfl,
      fieldsFrom_flip (by simp) (Nat.zero_le _)]

theorem fieldsFrom_decodeFields {c : Config} {f : List Nat} (h : Canonical c f) (p : Bit) :
    fieldsFrom c p 0 (decodeFields p f) = f := by
  induction f generalizing p with
  | nil => exact absurd h (not_canonical_nil c)
  | cons u f ih =>
    rw [decodeFields, fieldsFrom_replicate_append, Nat.zero_add]
    cases f with
    | nil => exact fieldsFrom_nil p ((canonical_singleton c u).mp h)
    | cons v g =>
      obtain ⟨-, -, hvg⟩ := (canonical_cons_cons c u v g).mp h
      rw [fieldsFrom_emits_first h, ih hvg]

theorem encodeBits_decodeFields {c : Config} {f : List Nat} (h : Canonical c f) :
    encodeBits c (decodeFields c.P0 f) = f := by
  rw [encodeBits_eq_fieldsFrom, fieldsFrom_decodeFields h]

theorem encodeBits_canonical (c : Config) (b : List Bit) : Canonical c (encodeBits c b) := by
  rw [encodeBits_eq_fieldsFrom]
  exact (fieldsFrom_canonical (Nat.zero_le _) b).1

/-! ## The size of the encoder's output (30_encoding R97) -/

/-- `k(n)` without its case distinction: one escape for every `MAX` bits before the last one. -/
theorem escapes_eq_div (c : Config) (n : Nat) : escapes c n = (n - 1) / c.max := by
  have hmax := one_le_max c
  unfold escapes
  split
  · exact (Nat.div_eq_of_lt (by omega)).symm
  · rw [Nat.sub_add_comm (by omega), Nat.add_div_right _ hmax]
    rfl

theorem escapes_max_add (c : Config) {n : Nat} (hn : 1 ≤ n) : escapes c (c.max + n) = escapes c n + 1 := by
  rw [escapes_eq_div, escapes_eq_div, Nat.add_sub_assoc hn, Nat.add_comm, Nat.add_div_right _ (one_le_max c)]

theorem split_length (c : Config) (n : Nat) : (split c n).length = 2 * escapes c n + 1 := by
  induction n using Nat.strong_induction_on with
  | _ n ih =>
    obtain hlt | hle := Nat.lt_or_ge c.max n
    · obtain ⟨k, rfl⟩ := Nat.exists_eq_add_of_lt hlt
      have hk := ih (k + 1) (by have := one_le_max c; omega)
      rw [Nat.add_assoc, split_max_add c (Nat.le_add_left 1 k), escapes_max_add c (Nat.le_add_left 1 k),
        List.length_cons, List.length_cons, hk]
      omega
    · simp [split_of_le hle, escapes, hle]

theorem serFields_length (c : Config) (f : List Nat) : (serFields c f).length = c.W * f.length := by
  simp [serFields, List.length_flatMap, Nat.mul_comm]

/-! ## The obligations -/

/-- Settles O40: encoder output is canonical field by field, and a canonical list is the encoding of its decoding. -/
theorem canonicalFormIsTheEncodersImage : Obligations.CanonicalFormIsTheEncodersImage := by
  refine fun c f => ⟨⟨fun h => ⟨_, encodeBits_decodeFields h⟩, ?_⟩, encodeBits_decodeFields⟩
  rintro ⟨b, rfl⟩
  exact encodeBits_canonical c b

/-- Settles O17: by cases on the operation, and on the port for the converse. -/
theorem decodeAndEncodeAgree : Obligations.DecodeAndEncodeAgree :=
  ⟨fun i _ => decode_encode i, fun _ _ _ => encode_of_decode⟩

/-- Settles O41: run by run, by the length of `split_W`. -/
theorem sizeOfTheEncodersOutput : Obligations.SizeOfTheEncodersOutput := by
  refine fun c b => ⟨?_, serFields_length c _⟩
  simp only [encodeBits, List.length_flatMap, split_length]

/-- Settles O12: a token that is not at the head is not taken. -/
theorem tokenOperationNeedsItsTokenAtTheHead : Obligations.TokenOperationNeedsItsTokenAtTheHead := by
  refine ⟨fun s d h => ?_, fun s h => ?_, fun s d h => ?_, fun s h => ?_⟩
  · simp [exec, execEncBit, takeEnc_eq_none h]
  · simp [exec, execEncEnd, takeEnc_eq_none h]
  · simp [exec, execDecFbit, takeDec_eq_none h]
  · simp [exec, execDecEnd, takeDec_eq_none h]

/-- Settles O14: the reset input is looked at before the token port. -/
theorem resetHasPriorityOverToken : Obligations.ResetHasPriorityOverToken :=
  ⟨fun _ hrst hd => step_of_enc_alone (selectEnc_of_encRst hrst) hd,
    fun _ hrst he => step_of_dec_alone he (selectDec_of_decRst hrst)⟩

/-- Settles O15: the operation decoded from the head word is the one selected, and it takes no reset pulse. -/
theorem stepRunsTheDecodedOperation : Obligations.StepRunsTheDecodedOperation := by
  refine ⟨fun s w rest i hrst hrun hin hdec hd => ?_, fun s w rest i hrst hrun hin hdec he => ?_,
    fun s i j => step_of_enc_turn, fun s i j => step_of_dec_turn⟩
  · obtain rfl : tokenInstr .enc (tokenOf w) = i := by simpa using hdec
    rw [step_of_enc_alone (selectEnc_of_head hrst hrun hin) hd, consumePulse_tokenInstr]
  · obtain rfl : tokenInstr .dec (tokenOf w) = i := by simpa using hdec
    rw [step_of_dec_alone he (selectDec_of_head hrst hrun hin), consumePulse_tokenInstr]

/-- Settles O16: the table is finite. -/
theorem specWordsDecodeToTheirOperations : Obligations.SpecWordsDecodeToTheirOperations := by
  unfold Obligations.SpecWordsDecodeToTheirOperations
  decide

/-- Settles O19: the output words are those of the input tokens, with `CLOSE` in the place of `END`. -/
theorem outputWordsReadAsInputTokens : Obligations.OutputWordsReadAsInputTokens :=
  ⟨tokenOf_wordOfOut_bit, tokenOf_wordOfOut_close, ⟨rfl, rfl, rfl⟩, wordOfOut_ne_reserved⟩

end Sys2Proof.Machine
end

section
/-! Proofs of the statements of 40_encoder: the arms of `ENC.BIT` and `ENC.END` (R112 to R115), what a run keeps
(R117 to R119), what it computes (R120, R121) and what its fields look like (R122 to R124). -/

namespace Sys2Proof.Machine

/-! ## One operation on the token at the head (40_encoder R112 to R115) -/

section
variable {s : State} {w : Word} {rest : List Word}

/-- In RUN, with its token at the head, `ENC.BIT d` is its body on the shorter channel. -/
theorem exec_encBit_of_head {d : Bit} (hrun : s.enc.running = true) (hin : s.encIn = w :: rest)
    (htok : tokenOf w = .bit d) : exec (.encBit d) s = .next (encBitBody d { s with encIn := rest }) :=
  exec_encBit_eq_next.mpr ⟨w, rest, hin, hrun, htok, rfl⟩

theorem exec_encEnd_of_head (hrun : s.enc.running = true) (hin : s.encIn = w :: rest) (htok : tokenOf w = .last) :
    exec .encEnd s = .next (encEndBody { s with encIn := rest }) :=
  exec_encEnd_eq_next.mpr ⟨w, rest, hin, hrun, htok, rfl⟩

/-- The count arm, below the saturation value (40_encoder R112). -/
theorem exec_encBit_count {d : Bit} (hrun : s.enc.running = true) (hin : s.encIn = w :: rest)
    (htok : tokenOf w = .bit d) (hd : d = s.enc.pol) (hlt : s.enc.cnt < s.encCfg.max) :
    exec (.encBit d) s = .next { s with encIn := rest, enc := { s.enc with cnt := s.enc.cnt + 1 } } := by
  rw [exec_encBit_of_head hrun hin htok, encBitBody_count (s := { s with encIn := rest }) hd (Nat.ne_of_lt hlt)]

end

/-! ## The counter and the emitted fields count the bits (40_encoder R117, R119) -/

theorem split_sum (c : Config) (n : Nat) : (split c n).sum = n := by
  induction n using Nat.strong_induction_on with
  | _ n ih =>
    obtain hlt | hle := Nat.lt_or_ge c.max n
    · have hrest := ih (n - c.max) (by have := one_le_max c; omega)
      rw [split_eq, if_neg (Nat.not_le.mpr hlt), List.sum_cons, List.sum_cons, hrest]
      omega
    · simp [split_of_le hle]

theorem fieldsFrom_sum (c : Config) (p : Bit) (n : Nat) (b : List Bit) : (fieldsFrom c p n b).sum = n + b.length := by
  induction b generalizing p n with
  | nil => simp [fieldsFrom, runsFrom, split_sum]
  | cons d b ih =>
    by_cases hd : d = p
    · subst hd
      rw [fieldsFrom_match, ih, List.length_cons]
      omega
    · have hflip : fieldsFrom c p n (d :: b) = split c n ++ fieldsFrom c d 1 b := by simp [fieldsFrom, runsFrom, hd]
      rw [hflip, List.sum_append, split_sum, ih, List.length_cons]
      omega

theorem encodeBits_sum (c : Config) (b : List Bit) : (encodeBits c b).sum = b.length := by
  rw [encodeBits_eq_fieldsFrom, fieldsFrom_sum, Nat.zero_add]

/-- `ENC.RESET` and the bits `b`: the encoder is still taking, and the emitted fields and the counter make the number of
bits taken. -/
theorem drive_encReset_encBits {s : State} (hin : s.encIn = []) (b : List Bit) :
    ∃ t, drive (.encReset :: encBits b) s = .next t ∧ EncTaking t ∧ t.encCfg = s.encCfg ∧
      t.enc.fields.sum + t.enc.cnt = b.length := by
  obtain ⟨t, hdrive, ht, ⟨hcfg, -, -⟩, hplan⟩ := drive_encBits (encTaking_resetEnc hin) b
  refine ⟨t, (drive_cons_of_next (exec_encReset s)).trans hdrive, ht, hcfg, ?_⟩
  calc t.enc.fields.sum + t.enc.cnt
      = (t.plannedFields []).sum := by simp [State.plannedFields, fieldsFrom_sum]
    _ = (fieldsFrom s.encCfg s.encCfg.P0 0 b).sum := by rw [hplan, List.append_nil]; rfl
    _ = b.length := by rw [fieldsFrom_sum, Nat.zero_add]

/-- The counter is 0 only while nothing was emitted, so only while no bit was taken (10_state R36). -/
theorem EncTaking.cnt_eq_zero_iff {t : State} (h : EncTaking t) :
    t.enc.cnt = 0 ↔ t.enc.fields.sum + t.enc.cnt = 0 := by
  obtain ⟨hl, hp⟩ := Enc.running_iff.mp h.running
  constructor
  · intro h0
    rw [h.inv.zero_run hl hp h0, h0, List.sum_nil]
  · exact fun h0 => (Nat.add_eq_zero_iff.mp h0).2

/-! ## What a run appends to the output channel (40_encoder R120, R121) -/

/-- From `s` to `t` the encoder appended to its output channel what it recorded as the run's output. -/
def AppendsItsOutput (s t : State) : Prop :=
  ∃ ws, t.encOutChannel = s.encOutChannel ++ ws ∧ t.enc.out = s.enc.out ++ ws

theorem AppendsItsOutput.refl (s : State) : AppendsItsOutput s s := ⟨[], by simp, by simp⟩

theorem AppendsItsOutput.trans {s t u : State} (h₁ : AppendsItsOutput s t) (h₂ : AppendsItsOutput t u) :
    AppendsItsOutput s u := by
  obtain ⟨ws₁, hch₁, hout₁⟩ := h₁
  obtain ⟨ws₂, hch₂, hout₂⟩ := h₂
  exact ⟨ws₁ ++ ws₂, by rw [hch₂, hch₁, List.append_assoc], by rw [hout₂, hout₁, List.append_assoc]⟩

/-- The encoder's token operations: what runs between `ENC.RESET` and the end of the run. -/
def IsEncToken (i : Instr) : Prop := i = .encEnd ∨ ∃ d, i = .encBit d

/-- A word presented on `ENC_IN` is on neither record, and the operation then emits its fields on both. -/
theorem exec_present_appendsItsOutput {i : Instr} {s t : State} (hi : IsEncToken i)
    (h : exec i (s.present i) = .next t) : AppendsItsOutput s t := by
  obtain ⟨-, ws, -, -, hch, hout⟩ := encOutCarriesTheEmittedFields i (s.present i) t hi h
  obtain rfl | ⟨d, rfl⟩ := hi <;> exact ⟨ws, hch, hout⟩

theorem drive_appendsItsOutput {is : List Instr} {s t : State} (his : ∀ i ∈ is, IsEncToken i)
    (h : drive is s = .next t) : AppendsItsOutput s t := by
  induction is generalizing s with
  | nil =>
    cases h
    exact .refl _
  | cons i is ih =>
    obtain ⟨hi, his⟩ := List.forall_mem_cons.mp his
    obtain ⟨u, hexec, hdrive⟩ := drive_cons_eq_next.mp h
    exact (exec_present_appendsItsOutput hi hexec).trans (ih his hdrive)

theorem isEncToken_of_mem {b : List Bit} {i : Instr} (hi : i ∈ encBits b ++ [.encEnd]) : IsEncToken i := by
  obtain hi | hi := List.mem_append.mp hi
  · obtain ⟨d, -, rfl⟩ := List.mem_map.mp hi
    exact .inr ⟨d, rfl⟩
  · exact .inl (List.mem_singleton.mp hi)

/-- `ENC.STREAM` appends to the output channel all of the run's output, which `ENC.RESET` has cleared. -/
theorem drive_encStream_channel {s t : State} {b : List Bit} (h : drive (encStream b) s = .next t) :
    t.encOutChannel = s.encOutChannel ++ t.enc.out := by
  obtain ⟨u, hreset, hdrive⟩ := drive_cons_eq_next.mp h
  cases hreset
  obtain ⟨ws, hch, hout⟩ := drive_appendsItsOutput (fun _ => isEncToken_of_mem) hdrive
  obtain rfl : t.enc.out = ws := hout
  exact hch

/-- The functional form of a run, with what stands on the channel (40_encoder R121). -/
theorem drive_encStream_computes {s : State} (hin : s.encIn = []) (b : List Bit) :
    ∃ t, drive (encStream b) s = .next t ∧ t.enc.fields = encodeBits s.encCfg b ∧
      t.enc.phase = .done ∧ t.enc.err = .noError ∧
      t.encOutChannel = s.encOutChannel ++ (fieldWords s.encCfg (encodeBits s.encCfg b) ++ [wordOfOut .close]) := by
  obtain ⟨t, hdrive, ⟨hcfg, -, -⟩, hinv, hl, hp, hfields⟩ := drive_encStream hin b
  refine ⟨t, hdrive, hfields, hp, hinv.no_err hl, ?_⟩
  rw [drive_encStream_channel hdrive, hinv.out_done hl hp, hcfg, hfields]

/-- What is true of `encode_W_P0(b)` is true of the fields that `ENC.STREAM b` leaves. -/
theorem drive_encStream_fields {s : State} (hin : s.encIn = []) {b : List Bit} {f : List Nat}
    (hf : encodeBits s.encCfg b = f) : ∃ t, drive (encStream b) s = .next t ∧ t.enc.fields = f := by
  obtain ⟨t, hdrive, hfields, -⟩ := drive_encStream_computes hin b
  exact ⟨t, hdrive, hfields.trans hf⟩

/-! ## The fields of one run (40_encoder R122) -/

/-- Every `MAX` bits before the last field are one escape. -/
theorem split_mul_max_add (c : Config) (k : Nat) {r : Nat} (h1 : 1 ≤ r) (hr : r ≤ c.max) :
    split c (k * c.max + r) = (List.replicate k [c.max, 0]).flatten ++ [r] := by
  induction k with
  | zero => simpa using split_of_le hr
  | succ k ih =>
    rw [Nat.succ_mul, Nat.add_comm _ c.max, Nat.add_assoc, split_max_add c (by omega), ih, List.replicate_succ]
    rfl

theorem escapes_pairs_length (m k r : Nat) : ((List.replicate k [m, 0]).flatten ++ [r]).length = 2 * k + 1 := by
  simp [Nat.mul_comm]

/-- A run of `n >= 1` bits is `k` times `MAX` bits and a rest in `1 .. MAX`, with `k` as R122 gives it. -/
theorem run_eq_mul_max_add (c : Config) {n k : Nat} (hn : 1 ≤ n) (hk : k = (n + c.max - 1) / c.max - 1) :
    ∃ r, n = k * c.max + r ∧ 1 ≤ r ∧ r ≤ c.max := by
  have hmax := one_le_max c
  obtain ⟨m, rfl⟩ := Nat.exists_eq_add_one.mpr hn
  have hdiv : k = m / c.max := by
    rw [hk, Nat.add_right_comm, Nat.add_sub_cancel, Nat.add_div_right _ hmax]
    rfl
  refine ⟨m % c.max + 1, ?_, Nat.le_add_left 1 _, Nat.mod_lt m hmax⟩
  rw [hdiv, ← Nat.add_assoc, Nat.div_add_mod']

/-! ## Zero fields (40_encoder R124) -/

section
variable {c : Config} {f : List Nat}

/-- In a canonical list a zero field behind the first one is directly behind a field `MAX`. -/
theorem Canonical.zero_after_max (h : Canonical c f) {i : Nat} (hi : 0 < i) (hz : f[i]? = some 0) :
    f[i - 1]? = some c.max := by
  obtain ⟨-, -, hlast, hinner⟩ := h
  obtain ⟨hlen, -⟩ := List.getElem?_eq_some_iff.mp hz
  obtain hlt | rfl : i < f.length - 1 ∨ i = f.length - 1 := by omega
  · exact hinner i hi hlt hz
  · exact absurd hz (hlast.resolve_left (by omega))

theorem Canonical.last_zero (h : Canonical c f) (hz : f.getLast? = some 0) : f = [0] := by
  obtain ⟨-, -, hlast, -⟩ := h
  rw [List.getLast?_eq_getElem?] at hz
  obtain ⟨v, rfl⟩ := List.length_eq_one_iff.mp (hlast.resolve_right fun hne => hne hz)
  simpa using hz

/-- Two zero fields in a row would make 0 the saturation value. -/
theorem Canonical.zeros_apart (h : Canonical c f) {i : Nat} (hz : f[i]? = some 0) : f[i + 1]? ≠ some 0 := by
  intro hz'
  have hmax : f[i]? = some c.max := h.zero_after_max (Nat.succ_pos i) hz'
  have h0 : 0 = c.max := by simpa [hz] using hmax
  exact absurd h0 (Nat.ne_of_lt (one_le_max c))

end

/-- The first field is 0 only if the input does not begin with `P0`. -/
theorem encodeBits_first_zero {c : Config} {b : List Bit} (hz : (encodeBits c b)[0]? = some 0) :
    b = [] ∨ b.head? = some (!c.P0) := by
  cases b with
  | nil => exact .inl rfl
  | cons d b =>
    refine .inr (congrArg some (Bool.eq_not_of_ne fun hd => ?_))
    obtain ⟨-, hhead⟩ := fieldsFrom_canonical (p := c.P0) (one_le_max c) b
    rw [encodeBits_eq_fieldsFrom, hd, fieldsFrom_match, ← List.head?_eq_getElem?] at hz
    exact hhead le_rfl hz

/-! ## The obligations -/

/-- Settles O36: the registers by the run's plan, the channel by the run's own output, which the invariant fixes. -/
theorem encoderComputesEncode : Obligations.EncoderComputesEncode :=
  fun _ b hin => drive_encStream_computes hin b

/-- Settles O32: the range by the invariant, and the counter is 0 only when it and the fields count no bit. -/
theorem counterStaysInRange : Obligations.CounterStaysInRange := by
  intro s b hin
  obtain ⟨t, hdrive, ht, hcfg, hsum⟩ := drive_encReset_encBits hin b
  obtain ⟨hl, hp⟩ := Enc.running_iff.mp ht.running
  refine ⟨t, hdrive, hcfg ▸ ht.inv.cnt_le, ?_, ht.inv.no_err hl, hp⟩
  rw [ht.cnt_eq_zero_iff, hsum, List.length_eq_zero_iff]

/-- Settles O33: it is part of the invariant in RUN. -/
theorem polarityAlternatesWithFields : Obligations.PolarityAlternatesWithFields := by
  intro s b hin
  obtain ⟨t, hdrive, ht, hcfg, -⟩ := drive_encReset_encBits hin b
  obtain ⟨hl, hp⟩ := Enc.running_iff.mp ht.running
  exact ⟨t, hdrive, hcfg ▸ ht.inv.pol_run hl hp⟩

/-- Settles O34: no operation changes the sum of the planned fields, and the encoding sums to the number of bits. -/
theorem fieldsCountTheBitsTaken : Obligations.FieldsCountTheBitsTaken := by
  intro s b hin
  obtain ⟨t, hdrive, -, -, hsum⟩ := drive_encReset_encBits hin b
  obtain ⟨u, hstream, hfields, hp, -⟩ := drive_encStream_computes hin b
  exact ⟨⟨t, hdrive, hsum⟩, u, hstream, hp, by rw [hfields, encodeBits_sum]⟩

/-- Settles O35: the words appended are those of `encode_W_P0(b)` and `CLOSE`, in which no state occurs. -/
theorem encoderOutputDependsOnBitsAndParametersOnly : Obligations.EncoderOutputDependsOnBitsAndParametersOnly := by
  intro s s' b hcfg hin hin'
  obtain ⟨t, hdrive, -, -, -, hch⟩ := drive_encStream_computes hin b
  obtain ⟨t', hdrive', -, -, -, hch'⟩ := drive_encStream_computes hin' b
  exact ⟨t, t', _, hdrive, hdrive', hch, hcfg ▸ hch'⟩

/-- Settles O37: a run is some number of saturated fields and a rest in `1 .. MAX`, and every saturated field before the
rest is one escape. -/
theorem splitOfARunInClosedForm : Obligations.SplitOfARunInClosedForm := by
  refine ⟨fun c n k r hn hk hr => ?_, fun c k hk => ?_, fun c => ⟨split_of_le le_rfl, ?_⟩⟩
  · obtain ⟨r', hn', h1, hle⟩ := run_eq_mul_max_add c hn hk
    obtain rfl : r = r' := by omega
    have hsplit := split_mul_max_add c k h1 hle
    rw [← hn'] at hsplit
    exact ⟨hsplit, h1, hle, by rw [hsplit, escapes_pairs_length]⟩
  · obtain ⟨k, rfl⟩ := Nat.exists_eq_add_one.mpr hk
    have hsplit := split_mul_max_add c k (one_le_max c) le_rfl
    rw [← Nat.succ_mul] at hsplit
    exact ⟨by rw [hsplit, escapes_pairs_length]; omega, hsplit⟩
  · rw [split_max_add c le_rfl, split_of_le (one_le_max c)]

/-- Settles O38: a bit `P0` is counted, a bit `NOT P0` flips, and `END` emits the counter. -/
theorem edgeStreamsEncodeAsTheSpecSays : Obligations.EdgeStreamsEncodeAsTheSpecSays := by
  intro s hin
  have hmax := one_le_max s.encCfg
  refine ⟨drive_encStream_fields hin ?_, drive_encStream_fields hin ?_, drive_encStream_fields hin ?_⟩
  · rw [encodeBits_eq_fieldsFrom, fieldsFrom_nil _ (Nat.zero_le _)]
  · rw [encodeBits_eq_fieldsFrom, fieldsFrom_match, fieldsFrom_nil _ hmax]
  · rw [encodeBits_eq_fieldsFrom, fieldsFrom_flip (by simp) (Nat.zero_le _), fieldsFrom_nil _ hmax]

/-- Settles O39: encoder output is canonical, and an encoding that sums to 0 is that of no bit. -/
theorem zeroFieldsOnlyAfterSaturationOrFirst : Obligations.ZeroFieldsOnlyAfterSaturationOrFirst := by
  intro c b
  have hcan := encodeBits_canonical c b
  refine ⟨fun i hz => ?_, fun hz => ?_, fun _ => hcan.zeros_apart⟩
  · obtain rfl | hi := Nat.eq_zero_or_pos i
    · exact .inl ⟨rfl, encodeBits_first_zero hz⟩
    · exact .inr ⟨hi, hcan.zero_after_max hi hz⟩
  · have hf := hcan.last_zero hz
    have hsum := encodeBits_sum c b
    rw [hf] at hsum
    exact ⟨hf, List.length_eq_zero_iff.mp hsum.symm⟩

/-- Settles O3: the count arm, and a number below `MAX` has room for one more. -/
theorem encBitCountsBelowSaturation : Obligations.EncBitCountsBelowSaturation :=
  fun _ _ _ _ hrun hin htok hd hlt => ⟨exec_encBit_count hrun hin htok hd hlt, hlt⟩

/-- Settles O4: the escape arm; the bit that brings the counter to `MAX` is still counted. -/
theorem encBitEscapesAtSaturation : Obligations.EncBitEscapesAtSaturation := by
  refine ⟨fun s d w rest hrun hin htok hd hc => ?_, fun s d w rest hrun hin htok hd hc => ?_⟩
  · rw [exec_encBit_of_head hrun hin htok, encBitBody_escape (s := { s with encIn := rest }) hd hc]
    simp [appendEncOut, fieldWords_pair]
  · rw [exec_encBit_count hrun hin htok hd (hc ▸ Nat.lt_succ_self _), hc]

/-- Settles O5: the flip arm. -/
theorem encBitFlipsOnDifferingBit : Obligations.EncBitFlipsOnDifferingBit := by
  intro s d w rest hrun hin htok hd hle
  rw [exec_encBit_of_head hrun hin htok, encBitBody_flip (s := { s with encIn := rest }) hd hle]
  simp [appendEncOut]

/-- Settles O6: the last field and `CLOSE` go out together. -/
theorem encEndEmitsAndCloses : Obligations.EncEndEmitsAndCloses := by
  intro s w rest hrun hin htok hle
  rw [exec_encEnd_of_head hrun hin htok, encEndBody_close (s := { s with encIn := rest }) hle]
  simp [appendEncOut]

end Sys2Proof.Machine
end

section
/-! Proofs of the statements of 41_decoder: the arms of `DEC.FBIT` and `DEC.END` (R141 to R143), what the decoder does
with bits and fields (R144 to R148, R150, R151, R153), and the round trip through both units (R149), in a loopback in
every order of the units (20_memory R68). -/

namespace Sys2Proof.Machine

/-! ## One operation on the token at the head (41_decoder R140 to R143) -/

section
variable {s : State} {w : Word} {rest : List Word}

/-- In RUN, with its token at the head, `DEC.FBIT d` is its body on the shorter channel. -/
theorem exec_decFbit_of_head {d : Bit} (hrun : s.dec.running = true) (hin : s.decIn = w :: rest)
    (htok : tokenOf w = .bit d) : exec (.decFbit d) s = .next (decFbitBody d { s with decIn := rest }) :=
  exec_decFbit_eq_next.mpr ⟨w, rest, hin, hrun, htok, rfl⟩

theorem exec_decEnd_of_head (hrun : s.dec.running = true) (hin : s.decIn = w :: rest) (htok : tokenOf w = .last) :
    exec .decEnd s = .next (decEndBody { s with decIn := rest }) :=
  exec_decEnd_eq_next.mpr ⟨w, rest, hin, hrun, htok, rfl⟩

end

/-! ## The decoder's state after any number of bits (41_decoder R144, R146) -/

@[simp] theorem decFbitBody_running (d : Bit) (s : State) : (decFbitBody d s).dec.running = s.dec.running := by
  obtain ⟨hl, hp, -⟩ := decFbitBody_kept d s
  rw [Dec.running, hl, hp, Dec.running]

@[simp] theorem decFbitBody_decIn (d : Bit) (s : State) : (decFbitBody d s).decIn = s.decIn := by
  obtain ⟨ts, r, h⟩ := decFbitBody_eq_decEffect d s
  rw [h]
  rfl

@[simp] theorem decFbitBody_decCfg (d : Bit) (s : State) : (decFbitBody d s).decCfg = s.decCfg := by
  obtain ⟨-, hcfg, -⟩ := decFbitBody_sameConfig d s
  exact hcfg

/-- The bits `b` taken one after the other. -/
def takeBits (b : List Bit) (s : State) : State := b.foldl (fun t d => decFbitBody d t) s

@[simp] theorem takeBits_nil (s : State) : takeBits [] s = s := rfl

@[simp] theorem takeBits_cons (d : Bit) (b : List Bit) (s : State) :
    takeBits (d :: b) s = takeBits b (decFbitBody d s) := rfl

@[simp] theorem takeBits_concat (b : List Bit) (d : Bit) (s : State) :
    takeBits (b ++ [d]) s = decFbitBody d (takeBits b s) := by
  simp [takeBits]

/-- On a drained input every bit presented is the one taken. -/
theorem drive_decBits {s : State} (hrun : s.dec.running = true) (hin : s.decIn = []) (b : List Bit) :
    drive (decBits b) s = .next (takeBits b s) := by
  induction b generalizing s with
  | nil => rfl
  | cons d b ih =>
    have hrest : { s.present (.decFbit d) with decIn := [] } = s := by rw [← hin]; rfl
    have hexec := exec_decFbit_of_head (s := s.present (.decFbit d)) (rest := []) hrun (by simp [hin])
      (tokenOf_wordOf (.bit d))
    rw [hrest] at hexec
    exact (drive_cons_of_next hexec).trans (ih (by simpa using hrun) (by simpa using hin))

theorem DecTaking.takeBits {s : State} (h : DecTaking s) (b : List Bit) : DecTaking (takeBits b s) := by
  induction b generalizing s with
  | nil => exact h
  | cons d b ih =>
    obtain ⟨-, -, herr⟩ := decFbitBody_kept d s
    exact ih ⟨by simpa using h.running, by simpa using h.drained, herr.trans h.no_err⟩

/-- Bits that do not fill the field are shifted in, and nothing is emitted (41_decoder R141). -/
theorem takeBits_inside {b : List Bit} {s : State} (hlt : s.dec.nb + b.length < s.decCfg.W) :
    takeBits b s = { s with dec := { s.dec with sh := b.foldl shiftIn s.dec.sh, nb := s.dec.nb + b.length } } := by
  induction b generalizing s with
  | nil => rfl
  | cons d b ih =>
    rw [List.length_cons] at hlt
    rw [takeBits_cons, decFbitBody_shift d (by omega), ih (by dsimp only; omega), Nat.add_assoc, Nat.add_comm 1]
    rfl

/-- The bit that fills the field completes it (41_decoder R142). -/
theorem takeBits_completeField {b : List Bit} {s : State} (hb : b ≠ []) (hW : s.dec.nb + b.length = s.decCfg.W) :
    takeBits b s = completeField (b.foldl shiftIn s.dec.sh) s := by
  obtain rfl | ⟨b, d, rfl⟩ := List.eq_nil_or_concat' b
  · exact absurd rfl hb
  · simp only [List.length_append, List.length_singleton] at hW
    rw [takeBits_concat, takeBits_inside (by omega), decFbitBody_complete d (by dsimp only; omega), List.foldl_concat]
    rfl

theorem deser_lt (b : List Bit) : deser b < 2 ^ b.length := by
  induction b using List.reverseRecOn with
  | nil => exact Nat.one_pos
  | append_singleton b d ih =>
    rw [deser_concat, List.length_append, List.length_singleton]
    exact shiftIn_lt d ih

/-- The registers `t` bits behind a field boundary count modulo `W` (41_decoder R146). -/
theorem takeBits_registers {s : State} (hnb : s.dec.nb = 0) (hsh : s.dec.sh = 0) (b : List Bit) :
    (takeBits b s).decCfg = s.decCfg ∧
    (takeBits b s).dec.nb = b.length % s.decCfg.W ∧
    (takeBits b s).dec.sh = deser (b.drop (b.length - b.length % s.decCfg.W)) ∧
    (takeBits b s).dec.pol = (s.dec.pol ^^ decide (b.length / s.decCfg.W % 2 = 1)) := by
  have hW := s.decCfg.W_pos
  induction b using List.reverseRecOn with
  | nil => simp [hnb, hsh]
  | append_singleton b d ih =>
    obtain ⟨hcfg, hn, hs, hp⟩ := ih
    have hmod := Nat.mod_lt b.length hW
    have hdiv := Nat.mod_add_div b.length s.decCfg.W
    rw [takeBits_concat, decFbitBody_decCfg, List.length_append, List.length_singleton]
    by_cases hlast : b.length % s.decCfg.W = s.decCfg.W - 1
    · obtain ⟨hq, hr⟩ := (Nat.div_mod_unique (a := b.length + 1) (d := b.length / s.decCfg.W + 1) (c := 0) hW).mpr
        ⟨by rw [Nat.mul_add]; omega, hW⟩
      rw [decFbitBody_complete d (by rw [hn, hcfg, hlast]), hq, hr, decide_add_odd]
      simp [decEffect, hp, hcfg]
    · obtain ⟨hq, hr⟩ := (Nat.div_mod_unique (a := b.length + 1) (d := b.length / s.decCfg.W)
        (c := b.length % s.decCfg.W + 1) hW).mpr ⟨by omega, by omega⟩
      rw [decFbitBody_shift d (by rwa [hn, hcfg]), hq, hr, Nat.add_sub_add_right,
        List.drop_append_of_le_length (Nat.sub_le _ _), deser_concat, ← hs, ← hn]
      exact ⟨hcfg, rfl, rfl, hp⟩

/-- `DEC.RESET` and the bits `b` (41_decoder R146). -/
theorem drive_decReset_decBits {s : State} (hin : s.decIn = []) (b : List Bit) :
    drive (.decReset :: decBits b) s = .next (takeBits b (resetDec s)) :=
  (drive_cons_of_next (exec_decReset s)).trans (drive_decBits (s := resetDec s) rfl hin b)

/-- `DEC.RESET` and the fields `f` (41_decoder R148). -/
theorem drive_decReset_decFieldsOps {s : State} (hin : s.decIn = []) {f : List Nat} (hf : fieldsWf s.decCfg f = true) :
    ∃ t, drive (.decReset :: decFieldsOps s.decCfg f) s = .next t ∧ DecBoundary t ∧
      t.decOut = s.decOut ++ bitWords (decodeFields s.decCfg.P0 f) := by
  obtain ⟨t, hdrive, ht, -, hout⟩ := drive_decFieldsOps (decBoundary_resetDec hin) hf
  exact ⟨t, (drive_cons_of_next (exec_decReset s)).trans hdrive, ht, hout⟩

/-! ## What fields decode to (41_decoder R145, R147, R148, R153) -/

theorem decodeFields_length (p : Bit) (f : List Nat) : (decodeFields p f).length = f.sum := by
  induction f generalizing p with
  | nil => rfl
  | cons n f ih => simp [decodeFields, ih]

theorem decodeFields_append (p : Bit) (f g : List Nat) :
    ∃ rest, decodeFields p (f ++ g) = decodeFields p f ++ rest := by
  induction f generalizing p with
  | nil => exact ⟨_, rfl⟩
  | cons n f ih =>
    obtain ⟨rest, h⟩ := ih (!p)
    exact ⟨rest, by rw [List.cons_append, decodeFields, h, decodeFields, List.append_assoc]⟩

theorem decodeFields_not (p : Bit) (f : List Nat) : decodeFields (!p) f = (decodeFields p f).map (!·) := by
  induction f generalizing p with
  | nil => rfl
  | cons n f ih => rw [decodeFields, decodeFields, ih, List.map_append, List.map_replicate]

/-- A zero field between two fields makes one run of them (41_decoder R145). -/
theorem decodeFields_escape (p : Bit) (m : Nat) (f : List Nat) :
    decodeFields p (m :: 0 :: f) = List.replicate m p ++ decodeFields p f := by
  rw [decodeFields, decodeFields_zero, Bool.not_not]

theorem decodeFields_singleton (p : Bit) (n : Nat) : decodeFields p [n] = List.replicate n p := by
  simp [decodeFields]

/-! ## Decoding an encoding (41_decoder R149) -/

/-- The fields of one run decode to that run, and the fields behind them with the other polarity, as `split_W` has an
odd number of fields. -/
theorem decodeFields_split_append (c : Config) (p : Bit) (n : Nat) (f : List Nat) :
    decodeFields p (split c n ++ f) = List.replicate n p ++ decodeFields (!p) f := by
  induction n using Nat.strong_induction_on with
  | _ n ih =>
    obtain hlt | hle := Nat.lt_or_ge c.max n
    · have hrest := ih (n - c.max) (by have := one_le_max c; omega)
      rw [split_eq, if_neg (Nat.not_le.mpr hlt), List.cons_append, List.cons_append, decodeFields_escape, hrest,
        ← List.append_assoc, List.replicate_append_replicate, Nat.add_sub_cancel' hlt.le]
    · rw [split_of_le hle]
      rfl

/-- The fields owed with `n` bits of polarity `p` counted decode to these `n` bits and those still to come. -/
theorem decodeFields_fieldsFrom (c : Config) (p : Bit) (n : Nat) (b : List Bit) :
    decodeFields p (fieldsFrom c p n b) = List.replicate n p ++ b := by
  induction b generalizing p n with
  | nil =>
    have h := decodeFields_split_append c p n []
    simpa [fieldsFrom, runsFrom, decodeFields] using h
  | cons d b ih =>
    by_cases hd : d = p
    · subst hd
      rw [fieldsFrom_match, ih, List.replicate_succ', List.append_assoc]
      rfl
    · have hflip : fieldsFrom c p n (d :: b) = split c n ++ fieldsFrom c d 1 b := by simp [fieldsFrom, runsFrom, hd]
      rw [hflip, decodeFields_split_append, ← Bool.eq_not_of_ne hd, ih]
      rfl

theorem decodeFields_encodeBits (c : Config) (b : List Bit) : decodeFields c.P0 (encodeBits c b) = b := by
  rw [encodeBits_eq_fieldsFrom, decodeFields_fieldsFrom]
  rfl

theorem fieldsWf_encodeBits (c : Config) (b : List Bit) : fieldsWf c (encodeBits c b) = true := by
  obtain ⟨-, hle, -⟩ := encodeBits_canonical c b
  simpa [fieldsWf, fieldWf] using hle

/-! ## The encoder's words carried to the decoder (41_decoder R149, 30_encoding R84) -/

/-- What a run on the bits `b` appends to `ENC_OUT`. -/
def encRunWords (c : Config) (b : List Bit) : List Word := fieldWords c (encodeBits c b) ++ [wordOfOut .close]

theorem decOpsOf_bitWords (b : List Bit) : decOpsOf (bitWords b) = decBits b := by
  simp [decOpsOf, bitWords, decBits, tokenInstr]

/-- The words of a field sequence, read on `DEC_IN`, are its operations. -/
theorem decOpsOf_fieldWords (c : Config) (f : List Nat) : decOpsOf (fieldWords c f) = decFieldsOps c f := by
  rw [fieldWords, decOpsOf_bitWords]
  exact List.map_flatMap

/-- Presented to the decoder after its reset, these words are `DEC.STREAM` of the fields. -/
theorem decOpsOf_encRunWords (c : Config) (b : List Bit) :
    .decReset :: decOpsOf (encRunWords c b) = decStream c (encodeBits c b) := by
  rw [decStream, ← decOpsOf_fieldWords, encRunWords, decOpsOf, List.map_append]
  rfl

/-- What an encoder operation leaves to the decoder outside a loopback. -/
structure SameDecSide (s t : State) : Prop where
  decCfg : t.decCfg = s.decCfg
  loopback : t.loopback = s.loopback
  decIn : t.decIn = s.decIn
  decOut : t.decOut = s.decOut

theorem SameDecSide.trans {s t u : State} (h₁ : SameDecSide s t) (h₂ : SameDecSide t u) : SameDecSide s u :=
  ⟨h₂.decCfg.trans h₁.decCfg, h₂.loopback.trans h₁.loopback, h₂.decIn.trans h₁.decIn, h₂.decOut.trans h₁.decOut⟩

theorem present_sameDecSide {i : Instr} (hi : i.unit = .enc) (s : State) : SameDecSide s (s.present i) := by
  cases i with
  | encReset | encBit | encEnd => exact ⟨rfl, rfl, rfl, rfl⟩
  | decReset | decFbit | decEnd => cases hi

theorem exec_sameDecSide {i : Instr} {s t : State} (hi : i.unit = .enc) (hl : s.loopback = false)
    (h : exec i s = .next t) : SameDecSide s t := by
  obtain ⟨-, hcfg, hwired⟩ := exec_sameConfig h
  have hframe := exec_encFrame hi h
  exact ⟨hcfg, hwired, hframe.decIn hl, hframe.decOut⟩

theorem drive_sameDecSide {is : List Instr} {s t : State} (his : ∀ i ∈ is, i.unit = .enc) (hl : s.loopback = false)
    (h : drive is s = .next t) : SameDecSide s t := by
  induction is generalizing s with
  | nil =>
    cases h
    exact ⟨rfl, rfl, rfl, rfl⟩
  | cons i is ih =>
    obtain ⟨hi, his⟩ := List.forall_mem_cons.mp his
    obtain ⟨u, hexec, hdrive⟩ := drive_cons_eq_next.mp h
    have hpresent := present_sameDecSide hi s
    have hu := hpresent.trans (exec_sameDecSide hi (hpresent.loopback.trans hl) hexec)
    exact hu.trans (ih his (hu.loopback.trans hl) hdrive)

theorem unit_of_mem_encStream {b : List Bit} {i : Instr} (hi : i ∈ encStream b) : i.unit = .enc := by
  obtain rfl | hi := List.mem_cons.mp hi
  · rfl
  · obtain rfl | ⟨d, rfl⟩ := isEncToken_of_mem hi <;> rfl

/-- `ENC.STREAM b` outside a loopback, seen from the decoder: its side is as it was, and the run's words stand on
`ENC_OUT`. -/
theorem drive_encStream_encOut {s : State} (hl : s.loopback = false) (hin : s.encIn = []) (b : List Bit) :
    ∃ t, drive (encStream b) s = .next t ∧ SameDecSide s t ∧ t.encOut = s.encOut ++ encRunWords s.encCfg b := by
  obtain ⟨t, hdrive, -, -, -, hch⟩ := drive_encStream_computes hin b
  have hside := drive_sameDecSide (fun _ => unit_of_mem_encStream) hl hdrive
  exact ⟨t, hdrive, hside, by simpa [State.encOutChannel, hside.loopback, hl, encRunWords] using hch⟩

/-- `DEC.STREAM` of an encoding with the same configuration gives the encoded bits (41_decoder R149, R150). -/
theorem drive_decStream_encodeBits {s : State} (hin : s.decIn = []) (b : List Bit) :
    ∃ t, drive (decStream s.decCfg (encodeBits s.decCfg b)) s = .next t ∧ t.dec.live = true ∧ t.dec.phase = .done ∧
      t.dec.err = .noError ∧ t.dec.out = bitWords b ++ [wordOfOut .close] ∧
      t.decOut = s.decOut ++ (bitWords b ++ [wordOfOut .close]) := by
  have h := drive_decStream hin (fieldsWf_encodeBits s.decCfg b)
  rwa [decodeFields_encodeBits] at h

/-! ## The decoder on a stream of words (41_decoder R149) -/

/-- What the decoder does with a token it took (41_decoder R140, R143). -/
def decTokenBody : Token → State → State
  | .bit d => decFbitBody d
  | .last => decEndBody

theorem exec_decToken_eq_next {tok : Token} {s t : State} :
    exec (tokenInstr .dec tok) s = .next t ↔
      ∃ w rest, s.decIn = w :: rest ∧ s.dec.running = true ∧ tokenOf w = tok ∧
        t = decTokenBody tok { s with decIn := rest } := by
  cases tok with
  | bit d => exact exec_decFbit_eq_next
  | last => exact exec_decEnd_eq_next

/-- Of the state a token operation of the decoder reads the decoder's registers and configuration only. -/
theorem decTokenBody_dec_congr (tok : Token) {s t : State} (hdec : t.dec = s.dec) (hcfg : t.decCfg = s.decCfg) :
    (decTokenBody tok t).dec = (decTokenBody tok s).dec := by
  cases tok with
  | bit d =>
    show (decFbitBody d t).dec = (decFbitBody d s).dec
    by_cases hn : s.dec.nb = s.decCfg.W - 1
    · rw [decFbitBody_complete d hn, decFbitBody_complete d (by rwa [hdec, hcfg])]
      simp [decEffect, hdec]
    · rw [decFbitBody_shift d hn, decFbitBody_shift d (by rwa [hdec, hcfg]), hdec]
  | last =>
    show (decEndBody t).dec = (decEndBody s).dec
    by_cases hn : s.dec.nb = 0
    · rw [decEndBody_close hn, decEndBody_close (by rwa [hdec])]
      simp [decEffect, hdec]
    · rw [decEndBody_raise hn, decEndBody_raise (by rwa [hdec])]
      simp [raise, hdec]

/-- The decoder's registers after a token, in a state that holds what the operation reads. -/
def Dec.after (c : Config) (r : Dec) (tok : Token) : Dec :=
  (decTokenBody tok { State.reset with decCfg := c, dec := r }).dec

theorem decTokenBody_dec (tok : Token) (s : State) : (decTokenBody tok s).dec = s.dec.after s.decCfg tok :=
  decTokenBody_dec_congr tok rfl rfl

/-- What a token appends to `DEC_OUT` it appends to the run's output. -/
theorem decTokenBody_appends (tok : Token) (s : State) :
    ∃ ws, (decTokenBody tok s).decOut = s.decOut ++ ws ∧ (decTokenBody tok s).dec.out = s.dec.out ++ ws := by
  cases tok with
  | bit d =>
    obtain ⟨-, h⟩ | ⟨-, h⟩ := decFbitBody_cases d s <;> rw [decTokenBody, h]
    · exact ⟨[], by simp, by simp⟩
    · exact ⟨_, rfl, rfl⟩
  | last =>
    obtain ⟨-, h⟩ | ⟨-, h⟩ := decEndBody_cases s <;> rw [decTokenBody, h]
    · exact ⟨_, rfl, rfl⟩
    · exact ⟨[], by simp, by simp⟩

theorem decTokenBody_decIn (tok : Token) (s : State) : (decTokenBody tok s).decIn = s.decIn := by
  cases tok with
  | bit d => exact decFbitBody_decIn d s
  | last =>
    obtain ⟨ts, r, h⟩ := decEndBody_eq_decEffect s
    rw [decTokenBody, h]
    rfl

theorem decTokenBody_decCfg (tok : Token) (s : State) : (decTokenBody tok s).decCfg = s.decCfg := by
  cases tok with
  | bit d => exact decFbitBody_decCfg d s
  | last =>
    obtain ⟨-, hcfg, -⟩ := decEndBody_sameConfig s
    exact hcfg

/-- In RUN the head of `DEC_IN` is taken, and what it appends is on `DEC_OUT` and in the run's output. -/
theorem exec_decToken {s : State} {w : Word} {rest : List Word} (hrun : s.dec.running = true)
    (hin : s.decIn = w :: rest) :
    ∃ t ws, exec (tokenInstr .dec (tokenOf w)) s = .next t ∧ t.decIn = rest ∧
      t.dec = s.dec.after s.decCfg (tokenOf w) ∧ t.decOut = s.decOut ++ ws ∧ t.dec.out = s.dec.out ++ ws := by
  obtain ⟨ws, hdecOut, hout⟩ := decTokenBody_appends (tokenOf w) { s with decIn := rest }
  exact ⟨_, ws, exec_decToken_eq_next.mpr ⟨w, rest, hin, hrun, rfl, rfl⟩, decTokenBody_decIn _ _,
    decTokenBody_dec _ _, hdecOut, hout⟩

/-- The registers of a decoder that has ended its run with the bits `b`. -/
structure Decoded (b : List Bit) (r : Dec) : Prop where
  live : r.live = true
  done : r.phase = .done
  no_err : r.err = .noError
  out : r.out = bitWords b ++ [wordOfOut .close]

/-- From the registers `r` the words take the decoder to the end of a run with the bits `b`, and it is in RUN at each of
them. -/
def DecodesTo (c : Config) (b : List Bit) : List Word → Dec → Prop
  | [], r => Decoded b r
  | w :: ws, r => r.running = true ∧ DecodesTo c b ws (r.after c (tokenOf w))

theorem exec_present_decToken {tok : Token} {s t : State} (hin : s.decIn = [])
    (h : exec (tokenInstr .dec tok) (s.present (tokenInstr .dec tok)) = .next t) :
    s.dec.running = true ∧ t = decTokenBody tok s := by
  have hpresent : s.present (tokenInstr .dec tok) = { s with decIn := [wordOf tok] } := by
    cases tok <;> simp [State.present, tokenInstr, hin]
  rw [hpresent] at h
  obtain ⟨w, rest, hword, hrun, -, rfl⟩ := exec_decToken_eq_next.mp h
  obtain ⟨-, rfl⟩ := List.cons.inj hword
  exact ⟨hrun, by rw [← hin]⟩

theorem decodesTo_of_drive {b : List Bit} {ws : List Word} {s t : State} (hin : s.decIn = [])
    (h : drive (decOpsOf ws) s = .next t) (ht : Decoded b t.dec) : DecodesTo s.decCfg b ws s.dec := by
  induction ws generalizing s with
  | nil =>
    cases h
    exact ht
  | cons w ws ih =>
    obtain ⟨u, hexec, hdrive⟩ := drive_cons_eq_next.mp h
    obtain ⟨hrun, rfl⟩ := exec_present_decToken hin hexec
    have hrest := ih ((decTokenBody_decIn _ s).trans hin) hdrive
    rw [decTokenBody_decCfg, decTokenBody_dec] at hrest
    exact ⟨hrun, hrest⟩

/-- The words of an encoder run decode to its bits. -/
theorem decodesTo_encRunWords {s : State} (hin : s.decIn = []) (b : List Bit) :
    DecodesTo s.decCfg b (encRunWords s.decCfg b) (Dec.init s.decCfg) := by
  obtain ⟨t, hdrive, hlive, hp, herr, hout, -⟩ := drive_decStream_encodeBits hin b
  rw [← decOpsOf_encRunWords] at hdrive
  obtain ⟨u, hreset, hdrive⟩ := drive_cons_eq_next.mp hdrive
  cases hreset
  exact decodesTo_of_drive (s := resetDec s) hin hdrive ⟨hlive, hp, herr, hout⟩

/-! ## The encoder on a run that stands on its input channel (40_encoder R121) -/

/-- The encoder's registers and what stands on `ENC_IN`, inside or at the end of a run on the bits `b`: the fields
emitted and those that the rest of the input makes are `encode_W_P0(b)`. -/
structure EncRun (c : Config) (b : List Bit) (e : Enc) (input : List Word) : Prop where
  live : e.live = true
  inv : EncInv c e
  rest : (e.phase = .run ∧ ∃ b', input = runWords b' ∧ e.fields ++ fieldsFrom c e.pol e.cnt b' = encodeBits c b) ∨
    (e.phase = .done ∧ input = [] ∧ e.fields = encodeBits c b)

theorem encRun_init (c : Config) (b : List Bit) : EncRun c b (Enc.init c) (runWords b) where
  live := rfl
  inv := encInv_init c
  rest := .inl ⟨rfl, b, rfl, (encodeBits_eq_fieldsFrom c b).symm⟩

theorem runWords_ne_nil (b : List Bit) : runWords b ≠ [] := by
  simp [runWords]

section
variable {c : Config} {b : List Bit} {e : Enc} {input : List Word}

theorem EncRun.running (h : EncRun c b e input) (hin : input ≠ []) : e.running = true := by
  obtain ⟨hp, -⟩ | ⟨-, hnil, -⟩ := h.rest
  · exact Enc.running_iff.mpr ⟨h.live, hp⟩
  · exact absurd hnil hin

theorem EncRun.finished (h : EncRun c b e []) : e.phase = .done ∧ e.fields = encodeBits c b := by
  obtain ⟨-, b', hin, -⟩ | ⟨hp, -, hf⟩ := h.rest
  · exact absurd hin.symm (runWords_ne_nil b')
  · exact ⟨hp, hf⟩

/-- The output of the run so far begins the output of the whole run. -/
theorem EncRun.owed (h : EncRun c b e input) : ∃ owed, e.out ++ owed = encRunWords c b := by
  obtain ⟨hp, b', -, hf⟩ | ⟨hp, -, hf⟩ := h.rest
  · exact ⟨fieldWords c (fieldsFrom c e.pol e.cnt b') ++ [wordOfOut .close], by
      rw [h.inv.out_run h.live hp, encRunWords, ← hf, fieldWords_append, List.append_assoc]⟩
  · exact ⟨[], by rw [h.inv.out_done h.live hp, encRunWords, hf, List.append_nil]⟩

theorem EncRun.out_of_finished (h : EncRun c b e []) : e.out = encRunWords c b := by
  obtain ⟨hp, hf⟩ := h.finished
  rw [h.inv.out_done h.live hp, hf, encRunWords]

end

theorem encRun_encBitBody {b b' : List Bit} {d : Bit} {s : State} (hrun : s.enc.running = true)
    (hinv : EncInv s.encCfg s.enc) (hplan : s.plannedFields (d :: b') = encodeBits s.encCfg b) :
    EncRun s.encCfg b (encBitBody d s).enc (runWords b') := by
  obtain ⟨hl, hp⟩ := Enc.running_iff.mp hrun
  obtain ⟨hlive, hkept⟩ := encBitBody_kept d s
  obtain ⟨hphase, -⟩ := hkept hinv.cnt_le
  obtain ⟨hcfg, -, -⟩ := encBitBody_sameConfig d s
  have hplan' := (encBitBody_plannedFields hinv.cnt_le d b').trans hplan
  rw [State.plannedFields, hcfg] at hplan'
  exact ⟨hlive.trans hl, encBitBody_encInv d hrun hinv, .inl ⟨hphase.trans hp, b', rfl, hplan'⟩⟩

theorem encRun_encEndBody {b : List Bit} {s : State} (hrun : s.enc.running = true) (hinv : EncInv s.encCfg s.enc)
    (hplan : s.plannedFields [] = encodeBits s.encCfg b) : EncRun s.encCfg b (encEndBody s).enc [] := by
  obtain ⟨hl, -⟩ := Enc.running_iff.mp hrun
  obtain ⟨hlive, -⟩ := encEndBody_kept s
  refine ⟨hlive.trans hl, encEndBody_encInv hrun hinv, .inr ⟨?_, rfl, (encEndBody_fields hinv.cnt_le).trans hplan⟩⟩
  rw [encEndBody_close hinv.cnt_le]

/-- The head of `ENC_IN` is taken and the run goes on with the rest. -/
theorem EncRun.exec {b : List Bit} {w : Word} {rest : List Word} {s : State} (h : EncRun s.encCfg b s.enc (w :: rest))
    (hin : s.encIn = w :: rest) :
    ∃ t, exec (tokenInstr .enc (tokenOf w)) s = .next t ∧ t.encIn = rest ∧ EncRun s.encCfg b t.enc rest := by
  have hrun := h.running (List.cons_ne_nil w rest)
  obtain ⟨-, b', hrest, hplan⟩ | ⟨-, hnil, -⟩ := h.rest
  · cases b' with
    | nil =>
      obtain ⟨rfl, rfl⟩ := List.cons.inj hrest
      obtain ⟨ts, e, hb⟩ := encEndBody_eq_encEffect { s with encIn := [] }
      refine ⟨_, exec_encEnd_of_head hrun hin (tokenOf_wordOf _), ?_,
        encRun_encEndBody (s := { s with encIn := [] }) hrun h.inv hplan⟩
      rw [hb]
      rfl
    | cons d b' =>
      obtain ⟨rfl, rfl⟩ := List.cons.inj hrest
      obtain ⟨ts, e, hb⟩ := encBitBody_eq_encEffect d { s with encIn := runWords b' }
      refine ⟨encBitBody d { s with encIn := runWords b' }, ?_, ?_,
        encRun_encBitBody (s := { s with encIn := runWords b' }) hrun h.inv hplan⟩
      · rw [tokenOf_wordOf]
        exact exec_encBit_of_head hrun hin (tokenOf_wordOf _)
      · rw [hb]
        rfl
  · cases hnil

/-! ## Both units over a loopback (41_decoder R149, 20_memory R68) -/

/-- The encoder's registers, with a reset that waits counted as done. -/
def State.encNow (s : State) : Enc := if s.encRst then Enc.init s.encCfg else s.enc

/-- The decoder's registers, with a reset that waits counted as done. -/
def State.decNow (s : State) : Dec := if s.decRst then Dec.init s.decCfg else s.dec

theorem encNow_of_reset {s : State} (h : s.encRst = true) : s.encNow = Enc.init s.encCfg := by simp [State.encNow, h]

theorem encNow_of_no_reset {s : State} (h : s.encRst = false) : s.encNow = s.enc := by simp [State.encNow, h]

theorem decNow_of_reset {s : State} (h : s.decRst = true) : s.decNow = Dec.init s.decCfg := by simp [State.decNow, h]

theorem decNow_of_no_reset {s : State} (h : s.decRst = false) : s.decNow = s.dec := by simp [State.decNow, h]

/-- Where a round trip of the bits `b` over a loopback stands between two steps, when the encoder has yet to append
the words `owed`: the encoder is inside its run, and what stands on the shared channel with what is owed brings the
decoder to the end of its own. -/
structure LoopbackRun (c : Config) (b : List Bit) (owed : List Word) (s : State) : Prop where
  wired : s.loopback = true
  encCfg : s.encCfg = c
  decCfg : s.decCfg = c
  enc : EncRun c b s.encNow s.encIn
  out : s.encNow.out ++ owed = encRunWords c b
  dec : DecodesTo c b (s.decIn ++ owed) s.decNow
  decOut : s.decOut = s.decNow.out

/-- How many operations are still to come: the resets that wait and a token operation for each word that a unit has
yet to take. -/
def pendingOps (owed : List Word) (s : State) : Nat :=
  (s.encRst.toNat + s.encIn.length) + (s.decRst.toNat + (s.decIn ++ owed).length)

/-- An outcome that is one operation further in the round trip. -/
def Advances (c : Config) (b : List Bit) (owed : List Word) (s : State) (o : Result) : Prop :=
  ∃ t owed', o = .next t ∧ LoopbackRun c b owed' t ∧ pendingOps owed' t < pendingOps owed s

theorem isEncToken_tokenInstr (tok : Token) : IsEncToken (tokenInstr .enc tok) := by
  cases tok with
  | bit d => exact .inr ⟨d, rfl⟩
  | last => exact .inl rfl

theorem unit_tokenInstr (u : UnitId) (tok : Token) : (tokenInstr u tok).unit = u := by
  cases u <;> cases tok <;> rfl

section
variable {c : Config} {b : List Bit} {owed : List Word} {s : State}

/-- What the encoder has to do: its reset, the word at the head, or nothing. -/
theorem LoopbackRun.selectEnc_cases (h : LoopbackRun c b owed s) :
    (s.encRst = true ∧ selectEnc s = some .encReset) ∨
    (s.encRst = false ∧ ∃ w rest, s.encIn = w :: rest ∧ selectEnc s = some (tokenInstr .enc (tokenOf w))) ∨
    (s.encRst = false ∧ s.encIn = [] ∧ selectEnc s = none) := by
  cases hrst : s.encRst with
  | true => exact .inl ⟨rfl, selectEnc_of_encRst hrst⟩
  | false =>
    cases hin : s.encIn with
    | nil => exact .inr (.inr ⟨rfl, rfl, selectEnc_eq_none hrst (.inr hin)⟩)
    | cons w rest =>
      have hrun := h.enc.running (by simp [hin])
      rw [encNow_of_no_reset hrst] at hrun
      exact .inr (.inl ⟨rfl, w, rest, rfl, selectEnc_of_head hrst hrun hin⟩)

theorem LoopbackRun.selectDec_cases (h : LoopbackRun c b owed s) :
    (s.decRst = true ∧ selectDec s = some .decReset) ∨
    (s.decRst = false ∧ ∃ w rest, s.decIn = w :: rest ∧ s.dec.running = true ∧
      selectDec s = some (tokenInstr .dec (tokenOf w))) ∨
    (s.decRst = false ∧ s.decIn = [] ∧ selectDec s = none) := by
  cases hrst : s.decRst with
  | true => exact .inl ⟨rfl, selectDec_of_decRst hrst⟩
  | false =>
    cases hin : s.decIn with
    | nil => exact .inr (.inr ⟨rfl, rfl, selectDec_eq_none hrst (.inr hin)⟩)
    | cons w rest =>
      have hdec := h.dec
      rw [hin, decNow_of_no_reset hrst] at hdec
      obtain ⟨hrun, -⟩ := hdec
      exact .inr (.inl ⟨rfl, w, rest, rfl, hrun, selectDec_of_head hrst hrun hin⟩)

theorem LoopbackRun.encReset_advances (h : LoopbackRun c b owed s) (hrst : s.encRst = true) :
    Advances c b owed s (exec .encReset (consumePulse .encReset s)) := by
  have hnow := encNow_of_reset hrst
  have henc := h.enc
  have hout := h.out
  rw [hnow] at henc hout
  refine ⟨_, owed, rfl, { h with enc := henc, out := hout }, ?_⟩
  simp [pendingOps, consumePulse, resetEnc, hrst]

theorem LoopbackRun.decReset_advances (h : LoopbackRun c b owed s) (hrst : s.decRst = true) :
    Advances c b owed s (exec .decReset (consumePulse .decReset s)) := by
  have hnow := decNow_of_reset hrst
  have hdec := h.dec
  have hout := h.decOut
  rw [hnow] at hdec hout
  refine ⟨_, owed, rfl, { h with dec := hdec, decOut := hout }, ?_⟩
  simp [pendingOps, consumePulse, resetDec, hrst]

/-- What the encoder appends is what it owes the less, so the words that the decoder has yet to take stay the same. -/
theorem LoopbackRun.encToken_advances (h : LoopbackRun c b owed s) (hrst : s.encRst = false) {w : Word}
    {rest : List Word} (hin : s.encIn = w :: rest) :
    Advances c b owed s (exec (tokenInstr .enc (tokenOf w)) s) := by
  have hnow := encNow_of_no_reset hrst
  have henc := h.enc
  have hout := h.out
  rw [hnow] at henc hout
  rw [hin, ← h.encCfg] at henc
  obtain ⟨t, hexec, htin, ht⟩ := henc.exec hin
  obtain ⟨-, ws, -, -, hch, hemit⟩ := encOutCarriesTheEmittedFields _ s t (isEncToken_tokenInstr _) hexec
  have hframe := exec_encFrame (unit_tokenInstr _ _) hexec
  obtain ⟨hce, hcd, hl⟩ := exec_sameConfig hexec
  have htnow := encNow_of_no_reset (hframe.encRst.trans hrst)
  have htdec : t.decNow = s.decNow := by simp [State.decNow, hframe.decRst, hframe.dec, hcd]
  rw [h.encCfg] at ht
  obtain ⟨owed', howed'⟩ := ht.owed
  have howed : owed = ws ++ owed' := by
    rw [hemit, List.append_assoc, ← hout] at howed'
    exact (List.append_cancel_left howed').symm
  have hstream : t.decIn ++ owed' = s.decIn ++ owed := by
    have hdecIn : t.decIn = s.decIn ++ ws := by simpa [State.encOutChannel, hl, h.wired] using hch
    rw [hdecIn, howed, List.append_assoc]
  refine ⟨t, owed', hexec, ?_, ?_⟩
  · exact {
      wired := hl.trans h.wired
      encCfg := hce.trans h.encCfg
      decCfg := hcd.trans h.decCfg
      enc := by rwa [htnow, htin]
      out := by rwa [htnow]
      dec := by rw [hstream, htdec]; exact h.dec
      decOut := by rw [hframe.decOut, htdec]; exact h.decOut }
  · rw [pendingOps, pendingOps, hstream, htin, hin, hframe.encRst, hframe.decRst, List.length_cons]
    omega

theorem LoopbackRun.decToken_advances (h : LoopbackRun c b owed s) (hrst : s.decRst = false) {w : Word}
    {rest : List Word} (hin : s.decIn = w :: rest) :
    Advances c b owed s (exec (tokenInstr .dec (tokenOf w)) s) := by
  have hnow := decNow_of_no_reset hrst
  have hdec := h.dec
  have hout := h.decOut
  rw [hin, hnow] at hdec
  rw [hnow] at hout
  obtain ⟨hrun, hdec⟩ := hdec
  obtain ⟨t, ws, hexec, htin, htdec, hdecOut, hrunOut⟩ := exec_decToken hrun hin
  have hframe := exec_decFrame (unit_tokenInstr _ _) hexec
  obtain ⟨hce, hcd, hl⟩ := exec_sameConfig hexec
  have htnow := decNow_of_no_reset (hframe.decRst.trans hrst)
  have htenc : t.encNow = s.encNow := by simp [State.encNow, hframe.encRst, hframe.enc, hce]
  refine ⟨t, owed, hexec, ?_, ?_⟩
  · exact {
      wired := hl.trans h.wired
      encCfg := hce.trans h.encCfg
      decCfg := hcd.trans h.decCfg
      enc := by rw [htenc, hframe.encIn]; exact h.enc
      out := by rw [htenc]; exact h.out
      dec := by rw [htin, htnow, htdec, h.decCfg]; exact hdec
      decOut := by rw [htnow, hdecOut, hrunOut, ← hout] }
  · rw [pendingOps, pendingOps, htin, hin, hframe.encIn, hframe.encRst, hframe.decRst, List.cons_append,
      List.length_cons]
    omega

theorem LoopbackRun.enc_advances (h : LoopbackRun c b owed s) {i : Instr} (hi : selectEnc s = some i) :
    Advances c b owed s (exec i (consumePulse i s)) := by
  obtain ⟨hrst, hsel⟩ | ⟨hrst, w, rest, hin, hsel⟩ | ⟨-, -, hsel⟩ := h.selectEnc_cases <;>
    cases hi.symm.trans hsel
  · exact h.encReset_advances hrst
  · rw [consumePulse_tokenInstr]
    exact h.encToken_advances hrst hin

theorem LoopbackRun.dec_advances (h : LoopbackRun c b owed s) {j : Instr} (hj : selectDec s = some j) :
    Advances c b owed s (exec j (consumePulse j s)) := by
  obtain ⟨hrst, hsel⟩ | ⟨hrst, w, rest, hin, -, hsel⟩ | ⟨-, -, hsel⟩ := h.selectDec_cases <;>
    cases hj.symm.trans hsel
  · exact h.decReset_advances hrst
  · rw [consumePulse_tokenInstr]
    exact h.decToken_advances hrst hin

/-- Whose turn it is does not count (20_memory R68). -/
theorem LoopbackRun.drawTurn (h : LoopbackRun c b owed s) : LoopbackRun c b owed (drawTurn s) := { h with }

/-- Whichever unit moves, the round trip advances, until neither has anything to do. -/
theorem LoopbackRun.step (h : LoopbackRun c b owed s) :
    (selectEnc s = none ∧ selectDec s = none) ∨ Advances c b owed s (step s) := by
  cases he : selectEnc s with
  | none =>
    cases hd : selectDec s with
    | none => exact .inl ⟨rfl, rfl⟩
    | some j => exact .inr (step_of_dec_alone he hd ▸ h.dec_advances hd)
  | some i =>
    cases hd : selectDec s with
    | none => exact .inr (step_of_enc_alone he hd ▸ h.enc_advances he)
    | some j =>
      cases ht : s.turn with
      | enc => exact .inr (step_of_enc_turn he hd ht ▸ h.drawTurn.enc_advances he)
      | dec => exact .inr (step_of_dec_turn he hd ht ▸ h.drawTurn.dec_advances hd)

theorem run_succ_of_step {s t : State} (h : step s = .next t) (k : Nat) :
    Host.Core.run Sys2Proof.core (k + 1) s = Host.Core.run Sys2Proof.core k t := by
  have hcore : Host.Core.step Sys2Proof.core s = .next t := h
  simp only [Host.Core.run, hcore]

/-- By induction on the operations still to come, the machine runs until neither unit has one. -/
theorem LoopbackRun.run (h : LoopbackRun c b owed s) :
    ∃ k t owed', Host.Core.run Sys2Proof.core k s = .next t ∧ LoopbackRun c b owed' t ∧
      selectEnc t = none ∧ selectDec t = none := by
  induction hn : pendingOps owed s using Nat.strong_induction_on generalizing owed s with
  | _ n ih =>
    obtain ⟨he, hd⟩ | ⟨u, owed', hstep, hu, hlt⟩ := h.step
    · exact ⟨0, s, owed, rfl, h, he, hd⟩
    · obtain ⟨k, t, owed'', hrun, ht⟩ := ih _ (hn ▸ hlt) hu rfl
      exact ⟨k + 1, t, owed'', (run_succ_of_step hstep k).trans hrun, ht⟩

/-- When neither unit has an operation, both have ended their runs. -/
theorem LoopbackRun.finished (h : LoopbackRun c b owed s) (he : selectEnc s = none) (hd : selectDec s = none) :
    EncRun c b s.enc [] ∧ Decoded b s.dec ∧ s.decOut = s.dec.out := by
  obtain ⟨-, hsel⟩ | ⟨-, w, rest, -, hsel⟩ | ⟨herst, hein, -⟩ := h.selectEnc_cases
  · cases he.symm.trans hsel
  · cases he.symm.trans hsel
  obtain ⟨-, hsel⟩ | ⟨-, w, rest, -, -, hsel⟩ | ⟨hdrst, hdin, -⟩ := h.selectDec_cases
  · cases hd.symm.trans hsel
  · cases hd.symm.trans hsel
  have henow := encNow_of_no_reset herst
  have hdnow := decNow_of_no_reset hdrst
  have henc := h.enc
  have hout := h.out
  have hdec := h.dec
  rw [henow, hein] at henc
  rw [henow, henc.out_of_finished] at hout
  obtain rfl : owed = [] := List.append_right_eq_self.mp hout
  rw [hdin, hdnow] at hdec
  exact ⟨henc, hdec, hdnow ▸ h.decOut⟩

end

/-- Both resets waiting and the whole input on `ENC_IN`. -/
theorem loopbackRun_launch {s : State} {b : List Bit} (hl : s.loopback = true) (hcfg : s.encCfg = s.decCfg)
    (her : s.encRst = true) (hdr : s.decRst = true) (hei : s.encIn = runWords b) (hdi : s.decIn = [])
    (hdo : s.decOut = []) : LoopbackRun s.encCfg b (encRunWords s.encCfg b) s := by
  have henow := encNow_of_reset her
  have hdnow := decNow_of_reset hdr
  exact {
    wired := hl
    encCfg := rfl
    decCfg := hcfg.symm
    enc := by rw [henow, hei]; exact encRun_init _ b
    out := by rw [henow]; rfl
    dec := by rw [hdi, hdnow, hcfg]; exact decodesTo_encRunWords hdi b
    decOut := by rw [hdo, hdnow]; rfl }

/-! ## The obligations -/

/-- Settles O47: field by field from the boundary that `DEC.RESET` sets up, and `CLOSE` on the last boundary. -/
theorem decoderComputesDecode : Obligations.DecoderComputesDecode := by
  intro s f hin hf
  obtain ⟨t, hdrive, -, hp, herr, -, hout⟩ := drive_decStream hin hf
  exact ⟨t, hdrive, hp, herr, hout⟩

/-- Settles O55: run by run, as the fields of a run decode to it and end on the other polarity. -/
theorem decodingAnEncodingGivesTheBitsBack : Obligations.DecodingAnEncodingGivesTheBitsBack :=
  decodeFields_encodeBits

/-- Settles O56: the encoder's words are `DEC.STREAM` of `encode_W_P0(b)`, which decodes to `b`. -/
theorem roundTripThroughBothUnits : Obligations.RoundTripThroughBothUnits := by
  intro s b hl hcfg hei heo hdi hdo
  obtain ⟨t, hdrive, hside, hencOut⟩ := drive_encStream_encOut hl hei b
  obtain ⟨u, hdrive', hlive, hp, herr, hout, hdecOut⟩ := drive_decStream_encodeBits (hside.decIn.trans hdi) b
  refine ⟨t, u, hdrive, ?_, hp, herr, ?_, decResult_eq_some.mpr ⟨hlive, hp, herr, ?_⟩⟩
  · rw [hencOut, heo, List.nil_append, decOpsOf_encRunWords, hcfg, ← hside.decCfg]
    exact hdrive'
  · rw [hdecOut, hside.decOut, hdo, List.nil_append]
    exact resultOf_closed b []
  · rw [hout]
    exact resultOf_closed b []

/-- Settles O57: whichever unit moves, the words the decoder has yet to take, those the encoder owes included, bring
it to the end of a run with the bits `b`. -/
theorem roundTripOverALoopback : Obligations.RoundTripOverALoopback := by
  intro s b hl hcfg her hdr hei hdi hdo
  obtain ⟨k, t, owed, hrun, ht, he, hd⟩ := (loopbackRun_launch hl hcfg her hdr hei hdi hdo).run
  obtain ⟨henc, hdec, hout⟩ := ht.finished he hd
  obtain ⟨hp, hfields⟩ := henc.finished
  have hresult : resultOf t.dec.out = some b := by
    rw [hdec.out]
    exact resultOf_closed b []
  have hencResult : t.encResult = some (serFields t.encCfg t.enc.fields) :=
    EncInv.encResult (ht.encCfg ▸ henc.inv) henc.live hp
  rw [ht.encCfg, hfields] at hencResult
  exact ⟨k, t, hrun, hp, hdec.done, hdec.no_err, hout ▸ hresult,
    decResult_eq_some.mpr ⟨hdec.live, hdec.done, hdec.no_err, hresult⟩, hencResult, step_idle he hd⟩

/-- Settles O42: the W bits complete the field; fewer do not reach its boundary. -/
theorem fieldOfWBitsDecodesAtOnce : Obligations.FieldOfWBitsDecodesAtOnce := by
  intro s v hrun hnb hsh hin hv
  have hlen : (ser s.decCfg.W v).length = s.decCfg.W := ser_length _ _
  refine ⟨?_, fun p q hpq hq => ⟨_, drive_decBits hrun hin p, ?_⟩⟩
  · have hne : ser s.decCfg.W v ≠ [] := List.ne_nil_of_length_pos (hlen.symm ▸ s.decCfg.W_pos)
    have hval : (ser s.decCfg.W v).foldl shiftIn s.dec.sh = v := by
      rw [hsh]
      exact deser_ser ((le_max_iff _ v).mp hv)
    rw [decField, drive_decBits hrun hin, takeBits_completeField hne (by rw [hnb, hlen, Nat.zero_add]), hval]
    simp [completeField, decEffect]
  · have hpos := List.length_pos_of_ne_nil hq
    rw [hpq, List.length_append] at hlen
    rw [takeBits_inside (by omega)]

/-- Settles O43: the complete arm toggles whatever it counted, and two toggles bring the polarity back. -/
theorem escapeIsTransparentToTheDecoder : Obligations.EscapeIsTransparentToTheDecoder := by
  refine ⟨fun s d w rest hrun hin htok hnb => ⟨_, exec_decFbit_of_head hrun hin htok, ?_⟩, fun c p r => ?_⟩
  · rw [decFbitBody_complete (s := { s with decIn := rest }) d hnb]
    exact ⟨rfl, fun hsh hd => by simp [decEffect, hsh, hd]⟩
  · rw [decodeFields_escape, decodeFields_singleton, List.replicate_append_replicate]

/-- Settles O44: by induction on the bits from the last one, which completes a field or is shifted in. -/
theorem decoderRegistersAfterAnyBits : Obligations.DecoderRegistersAfterAnyBits := by
  intro s b hin
  obtain ⟨-, hnb, hsh, hpol⟩ := takeBits_registers (s := resetDec s) rfl rfl b
  refine ⟨_, drive_decReset_decBits hin b, hnb, hsh, ?_, hpol⟩
  have hlt := deser_lt (b.drop (b.length - b.length % s.decCfg.W))
  rw [List.length_drop, Nat.sub_sub_self (Nat.mod_le _ _)] at hlt
  rw [hsh, hnb]
  exact hlt

/-- Settles O45: the words are those the fields decode to. -/
theorem outputLengthIsTheSumOfTheFields : Obligations.OutputLengthIsTheSumOfTheFields := by
  intro s f hin hf
  obtain ⟨t, hdrive, -, hout⟩ := drive_decReset_decFieldsOps hin hf
  exact ⟨t, _, hdrive, hout, decodeFields_length _ f⟩

/-- Settles O46: the decoder stands on a boundary, and decoding goes from left to right. -/
theorem firstFieldsDecodeToAPrefix : Obligations.FirstFieldsDecodeToAPrefix := by
  intro s f g hin hfg
  obtain ⟨hf, -⟩ : fieldsWf s.decCfg f = true ∧ fieldsWf s.decCfg g = true := by
    simpa [fieldsWf, List.all_append] using hfg
  obtain ⟨t, hdrive, ht, hout⟩ := drive_decReset_decFieldsOps hin hf
  obtain ⟨rest, hrest⟩ := decodeFields_append s.decCfg.P0 f g
  exact ⟨t, rest, hdrive, hout, hrest, (Dec.running_iff.mp ht.running).2⟩

/-- Settles O48: the bit index tells whether the last field is complete. -/
theorem formatErrorExactlyOnPartialFields : Obligations.FormatErrorExactlyOnPartialFields := by
  intro s b hin
  obtain ⟨-, hnb, -⟩ := takeBits_registers (s := resetDec s) rfl rfl b
  have ht := (decBoundary_resetDec hin).toDecTaking.takeBits b
  have hend := drive_cons_of_next (is := []) (exec_present_decEnd ht)
  refine ⟨_, drive_append_eq_next.mpr ⟨_, drive_decReset_decBits hin b, hend⟩, fun h => ?_, fun h => ?_⟩
  · rw [decEndBody_close (hnb.trans h)]
    exact ⟨rfl, ht.no_err⟩
  · rw [decEndBody_raise (hnb ▸ h)]
    exact ⟨rfl, rfl⟩

/-- Settles O50: field by field, both polarities toggle together. -/
theorem wrongPolarityInvertsTheOutput : Obligations.WrongPolarityInvertsTheOutput :=
  decodeFields_not

/-- Settles O8: the shift arm. -/
theorem decFbitShiftsInsideField : Obligations.DecFbitShiftsInsideField := by
  refine ⟨fun s d w rest hrun hin htok hlt => ?_, fun s hW => by simp [hW]⟩
  rw [exec_decFbit_of_head hrun hin htok, decFbitBody_shift (s := { s with decIn := rest }) d (Nat.ne_of_lt hlt)]
  rfl

/-- Settles O9: the complete arm. -/
theorem decFbitCompletesField : Obligations.DecFbitCompletesField := by
  intro s d w rest hrun hin htok hnb
  rw [exec_decFbit_of_head hrun hin htok, decFbitBody_complete (s := { s with decIn := rest }) d hnb]
  simp [decEffect, shiftIn]

/-- Settles O10: the two branches of `DEC.END`. -/
theorem decEndClosesOrRaisesFormatError : Obligations.DecEndClosesOrRaisesFormatError := by
  refine ⟨fun s w rest hrun hin htok hnb => ?_, fun s w rest hrun hin htok hnb => ?_⟩
  · rw [exec_decEnd_of_head hrun hin htok, decEndBody_close (s := { s with decIn := rest }) hnb]
    rfl
  · rw [exec_decEnd_of_head hrun hin htok, decEndBody_raise (s := { s with decIn := rest }) hnb]
    rfl

end Sys2Proof.Machine
end

section
/-! Proofs of the statements of 42_control: what the two RESETs set (R170, R171), the phase each operation leaves (R172), and
that a unit takes tokens only in RUN after a reset (R173; 70_reset R220). -/

namespace Sys2Proof.Machine

/-! ## The phase the body of a token operation leaves (42_control R172) -/

/-- Only the flip arm emits the counter, so a counter above `MAX` raises only on a bit that differs. -/
theorem encBitBody_phase (d : Bit) {s : State} (hp : s.enc.phase = .run) :
    (encBitBody d s).enc.phase = if d ≠ s.enc.pol ∧ s.encCfg.max < s.enc.cnt then .fault else .run := by
  obtain ⟨hd, -, h⟩ | ⟨hd, -, h⟩ | ⟨-, hc, h⟩ | ⟨hd, hc, h⟩ := encBitBody_cases d s <;> rw [h]
  · simp [hd, hp]
  · simp [hd, hp]
  · simp [Nat.not_lt.mpr hc, hp]
  · simp [hd, hc]

theorem encEndBody_phase (s : State) :
    (encEndBody s).enc.phase = if s.encCfg.max < s.enc.cnt then .fault else .done := by
  obtain ⟨hc, h⟩ | ⟨hc, h⟩ := encEndBody_cases s <;> rw [h]
  · simp [Nat.not_lt.mpr hc]
  · simp [hc]

theorem decEndBody_phase (s : State) :
    (decEndBody s).dec.phase = if s.dec.nb = 0 then .done else .fault := by
  obtain ⟨hn, h⟩ | ⟨hn, h⟩ := decEndBody_cases s <;> rw [h] <;> simp [hn]

/-! ## Tokens are taken in RUN after a reset (42_control R173, 70_reset R220) -/

theorem takeEnc_of_not_running {s : State} (h : s.enc.live = false ∨ s.enc.phase ≠ .run) (tok : Token) :
    takeEnc tok s = none := by
  refine Option.eq_none_iff_forall_ne_some.mpr fun t ht => ?_
  obtain ⟨w, rest, -, hrun, -, -⟩ := takeEnc_eq_some.mp ht
  obtain ⟨hlive, hphase⟩ := Enc.running_iff.mp hrun
  simp [hlive, hphase] at h

theorem takeDec_of_not_running {s : State} (h : s.dec.live = false ∨ s.dec.phase ≠ .run) (tok : Token) :
    takeDec tok s = none := by
  refine Option.eq_none_iff_forall_ne_some.mpr fun t ht => ?_
  obtain ⟨w, rest, -, hrun, -, -⟩ := takeDec_eq_some.mp ht
  obtain ⟨hlive, hphase⟩ := Dec.running_iff.mp hrun
  simp [hlive, hphase] at h

/-! ## The obligations -/

/-- Settles O23: a token operation starts in RUN, its body says in which phase it ends, and the other unit's registers are
in its frame. -/
theorem phaseMovesOnlyAsTheTableSays : Obligations.PhaseMovesOnlyAsTheTableSays := by
  intro i s t h
  cases i with
  | encReset => cases h; exact ⟨rfl, rfl⟩
  | encBit d =>
    have f := exec_encFrame rfl h
    obtain ⟨w, rest, -, hrun, -, rfl⟩ := exec_encBit_eq_next.mp h
    obtain ⟨-, hp⟩ := Enc.running_iff.mp hrun
    exact ⟨hp, congrArg Dec.phase f.dec, encBitBody_phase d (s := { s with encIn := rest }) hp⟩
  | encEnd =>
    have f := exec_encFrame rfl h
    obtain ⟨w, rest, -, hrun, -, rfl⟩ := exec_encEnd_eq_next.mp h
    obtain ⟨-, hp⟩ := Enc.running_iff.mp hrun
    exact ⟨hp, congrArg Dec.phase f.dec, encEndBody_phase { s with encIn := rest }⟩
  | decReset => cases h; exact ⟨rfl, rfl⟩
  | decFbit d =>
    have f := exec_decFrame rfl h
    obtain ⟨w, rest, -, hrun, -, rfl⟩ := exec_decFbit_eq_next.mp h
    obtain ⟨-, hp⟩ := Dec.running_iff.mp hrun
    obtain ⟨-, hphase, -⟩ := decFbitBody_kept d { s with decIn := rest }
    exact ⟨hp, hphase.trans hp, congrArg Enc.phase f.enc⟩
  | decEnd =>
    have f := exec_decFrame rfl h
    obtain ⟨w, rest, -, hrun, -, rfl⟩ := exec_decEnd_eq_next.mp h
    obtain ⟨-, hp⟩ := Dec.running_iff.mp hrun
    exact ⟨hp, congrArg Enc.phase f.enc, decEndBody_phase { s with decIn := rest }⟩

/-- Settles O1: the state it answers is the one `resetEnc` builds. -/
theorem encResetSetsEveryRegister : Obligations.EncResetSetsEveryRegister := exec_encReset

/-- Settles O2: the state it answers is the one `resetDec` builds. -/
theorem decResetSetsEveryRegister : Obligations.DecResetSetsEveryRegister := exec_decReset

/-- Settles O11: a unit that is not running takes no token. -/
theorem tokenOperationsOnlyInRun : Obligations.TokenOperationsOnlyInRun := by
  refine ⟨fun s d h => ?_, fun s h => ?_, fun s d h => ?_, fun s h => ?_⟩
  · rw [exec, execEncBit, takeEnc_of_not_running h, onToken_none]
  · rw [exec, execEncEnd, takeEnc_of_not_running h, onToken_none]
  · rw [exec, execDecFbit, takeDec_of_not_running h, onToken_none]
  · rw [exec, execDecEnd, takeDec_of_not_running h, onToken_none]

end Sys2Proof.Machine
end

section
/-! Proofs of the statements of 60_exceptions: a counter above `MAX` raises FieldOverflow (R198), which operation raises
which error (R191, R195), and that FieldOverflow is unreachable (R192). -/

namespace Sys2Proof.Machine

/-! ## When the body of a token operation shows a new error (60_exceptions R191, R195) -/

/-- Of the four arms of `ENC.BIT` only the overflow arm writes `err`. -/
theorem encBitBody_raises {d : Bit} {s : State} (hne : (encBitBody d s).enc.err ≠ s.enc.err) :
    s.encCfg.max < s.enc.cnt ∧ (encBitBody d s).enc.err = .fieldOverflow := by
  obtain ⟨-, -, h⟩ | ⟨-, -, h⟩ | ⟨-, -, h⟩ | ⟨-, hc, h⟩ := encBitBody_cases d s
  · exact absurd (by rw [h]) hne
  · exact absurd (by rw [h]) hne
  · exact absurd (by rw [h]) hne
  · exact ⟨hc, by rw [h, raise_enc_enc_err]⟩

theorem encEndBody_raises {s : State} (hne : (encEndBody s).enc.err ≠ s.enc.err) :
    s.encCfg.max < s.enc.cnt ∧ (encEndBody s).enc.err = .fieldOverflow := by
  obtain ⟨-, h⟩ | ⟨hc, h⟩ := encEndBody_cases s
  · exact absurd (by rw [h]) hne
  · exact ⟨hc, by rw [h, raise_enc_enc_err]⟩

theorem decEndBody_raises {s : State} (hne : (decEndBody s).dec.err ≠ s.dec.err) :
    s.dec.nb ≠ 0 ∧ (decEndBody s).dec.err = .formatError := by
  obtain ⟨-, h⟩ | ⟨hn, h⟩ := decEndBody_cases s
  · exact absurd (by rw [h]) hne
  · exact ⟨hn, by rw [h, raise_dec_dec_err]⟩

/-! ## What holds over any number of steps -/

/-- A run of `k + 1` steps that answers a state takes one step and then runs for `k`. -/
theorem run_succ_eq_next {k : Nat} {s t : State} (h : Host.Core.run Sys2Proof.core (k + 1) s = .next t) :
    ∃ u, step s = .next u ∧ Host.Core.run Sys2Proof.core k u = .next t := by
  cases hstep : step s with
  | next u => exact ⟨u, rfl, run_succ_of_step hstep k ▸ h⟩
  | fault r => cases r
  | refused r =>
    have hcore : Host.Core.step Sys2Proof.core s = .refused r := hstep
    simp [Host.Core.run, hcore] at h

/-- What every step keeps, every run keeps. -/
theorem run_keeps {P : State → Prop} (hstep : ∀ s t, P s → step s = .next t → P t) {k : Nat} {s t : State} (hs : P s)
    (h : Host.Core.run Sys2Proof.core k s = .next t) : P t := by
  induction k generalizing s with
  | zero => cases h; exact hs
  | succ k ih =>
    obtain ⟨u, hu, hrun⟩ := run_succ_eq_next h
    exact ih (hstep s u hs hu) hrun

/-! ## The obligations -/

/-- Settles O31: the invariant holds after every step, and it rules out FieldOverflow. -/
theorem fieldOverflowIsUnreachable : Obligations.FieldOverflowIsUnreachable := by
  intro k s t hs h hlive
  have henc := (run_keeps everyStepKeepsTheInvariant hs h).enc
  exact ⟨henc.no_err hlive, henc.no_fault hlive⟩

/-- Settles O25: a RESET clears its unit's error, a token operation raises in its body, and the other unit's registers are
in its frame. -/
theorem onlyTheNamedOperationsRaise : Obligations.OnlyTheNamedOperationsRaise := by
  intro i s t h
  cases i with
  | encReset => cases h; exact ⟨fun hne => absurd rfl hne, fun _ herr => absurd rfl herr⟩
  | decReset => cases h; exact ⟨fun _ herr => absurd rfl herr, fun hne => absurd rfl hne⟩
  | encBit d =>
    have f := exec_encFrame rfl h
    obtain ⟨w, rest, -, -, -, rfl⟩ := exec_encBit_eq_next.mp h
    exact ⟨fun hne => absurd (congrArg Dec.err f.dec) hne,
      fun hne _ => ⟨.inr ⟨d, rfl⟩, encBitBody_raises (s := { s with encIn := rest }) hne⟩⟩
  | encEnd =>
    have f := exec_encFrame rfl h
    obtain ⟨w, rest, -, -, -, rfl⟩ := exec_encEnd_eq_next.mp h
    exact ⟨fun hne => absurd (congrArg Dec.err f.dec) hne,
      fun hne _ => ⟨.inl rfl, encEndBody_raises (s := { s with encIn := rest }) hne⟩⟩
  | decFbit d =>
    have f := exec_decFrame rfl h
    obtain ⟨w, rest, -, -, -, rfl⟩ := exec_decFbit_eq_next.mp h
    obtain ⟨-, -, herr⟩ := decFbitBody_kept d { s with decIn := rest }
    exact ⟨fun hne => absurd herr hne, fun hne => absurd (congrArg Enc.err f.enc) hne⟩
  | decEnd =>
    have f := exec_decFrame rfl h
    obtain ⟨w, rest, -, -, -, rfl⟩ := exec_decEnd_eq_next.mp h
    exact ⟨fun hne _ => ⟨rfl, decEndBody_raises (s := { s with decIn := rest }) hne⟩,
      fun hne => absurd (congrArg Enc.err f.enc) hne⟩

/-- Settles O7: the overflow arm of each token operation. -/
theorem oversizedCounterRaisesFieldOverflow : Obligations.OversizedCounterRaisesFieldOverflow := by
  refine ⟨fun s d w rest hrun hin htok hd hlt => ?_, fun s w rest hrun hin htok hlt => ?_⟩
  · rw [exec_encBit_of_head hrun hin htok, encBitBody_overflow (s := { s with encIn := rest }) hd hlt]
    rfl
  · rw [exec_encEnd_of_head hrun hin htok, encEndBody_overflow (s := { s with encIn := rest }) hlt]
    rfl

end Sys2Proof.Machine
end

section
/-! Proofs of the statements of 70_reset_and_hazards: every run ends after its tokens (R236), whole zero fields of padding are
harmless (R229), and what a host's draining does (R231). -/

namespace Sys2Proof.Machine

/-! ## The encoder's run from any counter in range (70_reset R236) -/

/-- All that the encoder needs to complete a token presented to it. The invariant of a run is more: it also ties the
registers to the ghosts, on which no operation's completion depends. -/
structure EncReady (s : State) : Prop where
  running : s.enc.running = true
  drained : s.encIn = []
  cnt_le : s.enc.cnt ≤ s.encCfg.max

/-- No arm of `ENC.BIT` brings a counter in range above `MAX`: counting happens below it, and emitting sets it to 1. -/
theorem encBitBody_cnt_le (d : Bit) {s : State} (hle : s.enc.cnt ≤ s.encCfg.max) :
    (encBitBody d s).enc.cnt ≤ s.encCfg.max := by
  obtain ⟨-, hc, h⟩ | ⟨-, -, h⟩ | ⟨-, -, h⟩ | ⟨-, hc, -⟩ := encBitBody_cases d s
  · rw [h]
    exact Nat.lt_of_le_of_ne hle hc
  · rw [h]
    exact one_le_max _
  · rw [h]
    exact one_le_max _
  · exact absurd hle (Nat.not_le.mpr hc)

theorem EncReady.encBitBody {s : State} (h : EncReady s) (d : Bit) : EncReady (encBitBody d s) where
  running := by
    obtain ⟨hl, hkept⟩ := encBitBody_kept d s
    obtain ⟨hp, -⟩ := hkept h.cnt_le
    rw [Enc.running, hl, hp]
    exact h.running
  drained := by
    obtain ⟨ts, e, hb⟩ := encBitBody_eq_encEffect d s
    rw [hb]
    exact h.drained
  cnt_le := by
    obtain ⟨hcfg, -, -⟩ := encBitBody_sameConfig d s
    rw [hcfg]
    exact encBitBody_cnt_le d h.cnt_le

theorem EncReady.exec_present_encBit {s : State} (h : EncReady s) (d : Bit) :
    ∃ t, exec (.encBit d) (s.present (.encBit d)) = .next t ∧ EncReady t := by
  have hexec := exec_encBit_of_head (s := s.present (.encBit d)) (rest := []) h.running (by simp [h.drained])
    (tokenOf_wordOf (.bit d))
  have htaken : EncReady { s.present (.encBit d) with encIn := [] } := ⟨h.running, rfl, h.cnt_le⟩
  exact ⟨_, hexec, htaken.encBitBody d⟩

/-- `ENC.END` takes the last token and, with the counter in range, ends the run (40_encoder R115). -/
theorem EncReady.exec_present_encEnd {s : State} (h : EncReady s) :
    ∃ t, exec .encEnd (s.present .encEnd) = .next t ∧ t.enc.phase = .done ∧ t.encIn = [] := by
  have hexec := exec_encEnd_of_head (s := s.present .encEnd) (rest := []) h.running (by simp [h.drained])
    (tokenOf_wordOf .last)
  refine ⟨_, hexec, ?_⟩
  rw [encEndBody_close (s := { s.present .encEnd with encIn := [] }) h.cnt_le]
  exact ⟨rfl, rfl⟩

/-- One operation per token, up to `END`. -/
theorem EncReady.drive_run {s : State} (h : EncReady s) (b : List Bit) :
    ∃ t, drive (encBits b ++ [.encEnd]) s = .next t ∧ t.enc.phase = .done ∧ t.encIn = [] := by
  induction b generalizing s with
  | nil =>
    obtain ⟨t, hexec, ht⟩ := h.exec_present_encEnd
    exact ⟨t, drive_cons_of_next hexec, ht⟩
  | cons d b ih =>
    obtain ⟨u, hexec, hu⟩ := h.exec_present_encBit d
    obtain ⟨t, hdrive, ht⟩ := ih hu
    exact ⟨t, (drive_cons_of_next hexec).trans hdrive, ht⟩

/-! ## The decoder's run from any bit index (70_reset R236) -/

@[simp] theorem takeBits_running (b : List Bit) (s : State) : (takeBits b s).dec.running = s.dec.running := by
  induction b generalizing s with
  | nil => rfl
  | cons d b ih => rw [takeBits_cons, ih, decFbitBody_running]

@[simp] theorem takeBits_decIn (b : List Bit) (s : State) : (takeBits b s).decIn = s.decIn := by
  induction b generalizing s with
  | nil => rfl
  | cons d b ih => rw [takeBits_cons, ih, decFbitBody_decIn]

/-- `DEC.END` takes the last token and ends the run, by closing or by raising (41_decoder R143). -/
theorem exec_present_decEnd_ends {s : State} (hrun : s.dec.running = true) (hin : s.decIn = []) :
    ∃ t, exec .decEnd (s.present .decEnd) = .next t ∧ (t.dec.phase = .done ∨ t.dec.phase = .fault) ∧ t.decIn = [] := by
  have hexec := exec_decEnd_of_head (s := s.present .decEnd) (rest := []) hrun (by simp [hin]) (tokenOf_wordOf .last)
  refine ⟨_, hexec, ?_, decTokenBody_decIn .last _⟩
  rw [decEndBody_phase]
  exact ite_eq_or_eq _ _ _

/-! ## Zero fields behind a field stream (70_reset R229) -/

theorem decodeFields_replicate_zero (p : Bit) (k : Nat) : decodeFields p (List.replicate k 0) = [] := by
  induction k generalizing p with
  | zero => rfl
  | succ k ih => rw [List.replicate_succ, decodeFields_zero, ih]

/-- Whatever polarity the fields before them leave, zero fields add no bit. -/
theorem decodeFields_append_replicate_zero (p : Bit) (f : List Nat) (k : Nat) :
    decodeFields p (f ++ List.replicate k 0) = decodeFields p f := by
  induction f generalizing p with
  | nil => exact decodeFields_replicate_zero p k
  | cons n f ih => rw [List.cons_append, decodeFields, ih, decodeFields]

/-! ## `ENC_OUT` under draining (70_reset R231) -/

/-- In a loopback the encoder's output channel is the one that `drain` empties on the decoder's side. -/
theorem drain_enc_encOutChannel (s : State) : (s.drain .enc).encOutChannel = [] := by
  cases hl : s.loopback <;> simp [State.encOutChannel, hl]

/-- Without a loopback `ENC_OUT` is a channel of its own, which `DEC_IN` being written leaves as it is. -/
theorem encOutChannel_congr {s t : State} (hl : s.loopback = false) (hlt : t.loopback = s.loopback)
    (hout : t.encOut = s.encOut) : t.encOutChannel = s.encOutChannel := by
  simp [State.encOutChannel, hlt, hl, hout]

/-! ## The obligations -/

/-- Settles O49: every token is taken by one operation, and the last one is `END`, which leaves RUN. -/
theorem everyRunEndsAfterItsTokens : Obligations.EveryRunEndsAfterItsTokens := by
  refine ⟨fun s b hrun hin hle => EncReady.drive_run ⟨hrun, hin, hle⟩ b, fun s b hrun hin => ?_⟩
  obtain ⟨t, hexec, ht⟩ := exec_present_decEnd_ends (s := takeBits b s) (by simpa using hrun) (by simpa using hin)
  exact ⟨t, drive_append_eq_next.mpr ⟨_, drive_decBits hrun hin b, drive_cons_of_next hexec⟩, ht⟩

/-- Settles O51: by induction on the fields before the padding. -/
theorem wholeZeroFieldsOfPaddingAreHarmless : Obligations.WholeZeroFieldsOfPaddingAreHarmless :=
  decodeFields_append_replicate_zero

/-- Settles O54: `drain` and `drainInput` write channels only, and `ENC_OUT` is the one that the wiring decides. -/
theorem drainingEmptiesAUnitsChannelsOnly : Obligations.DrainingEmptiesAUnitsChannelsOnly := by
  refine ⟨fun s => ⟨rfl, drain_enc_encOutChannel s, rfl, fun hl => by simp [hl]⟩,
    fun s => ⟨rfl, rfl, rfl, fun hl => encOutChannel_congr hl rfl rfl⟩,
    fun s => ⟨rfl, rfl, rfl, rfl, rfl, rfl, rfl, fun hl => encOutChannel_congr hl rfl rfl⟩, fun u s => ?_⟩
  cases u <;> exact ⟨rfl, rfl, rfl, rfl, rfl, rfl, rfl⟩

end Sys2Proof.Machine
end
